-- ==== Sys2Proof/Word.lean ====
section
/-! DEFINITION. The bit-vector and array types of the core: byte and word (R11), the 16-byte block (R9),
a round key of four words and a file of fifteen of them (R43). -/

namespace Sys2Proof

/-- A byte, 8 bits (R11). -/
abbrev Byte := BitVec 8

/-- A word, 32 bits (R11). -/
abbrev Word := BitVec 32

/-- A block of 16 bytes, byte 0 first (R9). -/
abbrev Block := Vector Byte 16

/-- Four words: a round key (R43), or the four state words of a block inside the transform (R180). -/
abbrev RoundKey := Vector Word 4

/-- A round-key file, EK or DK: 15 rows of 4 words (R43). -/
abbrev RoundKeys := Vector RoundKey 15

end Sys2Proof
end

