-- ==== Sys2Proof/Syntax.lean ====
section
/-! DEFINITION. The ten commands of rule R101, one constructor per row of spec/opcode_table.json. -/

namespace Sys2Proof

/-- A command (R101). The two length immediates are byte counts (R102); `Instr.wellFormed` bounds them to
the 6 bits of IMM6. The other operands are read from the port registers when the command performs (R103). -/
inductive Instr where
  /-- KEY_EXPAND, with KEYLEN in bytes (R165). -/
  | keyExpand (keylen : Nat)
  /-- BLOCK_ENC (R185). -/
  | blockEnc
  /-- BLOCK_DEC (R186). -/
  | blockDec
  /-- CTR_LOAD, with NLEN in bytes (R203). -/
  | ctrLoad (nlen : Nat)
  /-- CTR_SETVAL (R204). -/
  | ctrSetval
  /-- CTR_SETBYTES (R205). -/
  | ctrSetbytes
  /-- CTR_INC (R206). -/
  | ctrInc
  /-- CTR_CLONE (R207). -/
  | ctrClone
  /-- STREAM_RESET (R231). -/
  | streamReset
  /-- STREAM_APPLY (R232). -/
  | streamApply
deriving DecidableEq, Repr

end Sys2Proof
end

