-- ==== Sys2Proof/WellFormed.lean ====
section
/-! DEFINITION. Which commands a command word can hold: the immediate is a 6-bit field (R102, R107). -/

namespace Sys2Proof

/-- An IMM6 value outside 0..63 cannot be written (R107); every other command is a word as it stands. -/
def Instr.wellFormed : Instr → Bool
  | .keyExpand keylen => decide (keylen < 64)
  | .blockEnc => true
  | .blockDec => true
  | .ctrLoad nlen => decide (nlen < 64)
  | .ctrSetval => true
  | .ctrSetbytes => true
  | .ctrInc => true
  | .ctrClone => true
  | .streamReset => true
  | .streamApply => true

end Sys2Proof
end

