-- ==== Sys2Proof/Decode.lean ====
section
/-! DEFINITION. The decoder of rule R105, total on every 32-bit word and rejecting by name, and after it the
encoder of rule R107. -/

namespace Sys2Proof

/-- Why a word is illegal: the three cases of rule R104. -/
inductive IllegalWord where
  /-- R104 (a): OP is 0x00 or in 0x0B..0xFF. -/
  | unknownOpcode
  /-- R104 (b): RSV is not 0. -/
  | reservedBits
  /-- R104 (c): IMM6 is not 0 on an opcode that takes no immediate. -/
  | immediateNotZero
deriving DecidableEq, Repr

/-- What a word decodes to: exactly one command, or illegal (R105). -/
inductive Decoded where
  | command (i : Instr)
  | illegal (why : IllegalWord)
deriving DecidableEq, Repr

/-- OP, bits [7:0] (R100). -/
def opField (v : Word) : BitVec 8 := v.extractLsb' 0 8

/-- IMM6, bits [13:8] (R100, R102). -/
def immField (v : Word) : BitVec 6 := v.extractLsb' 8 6

/-- RSV, bits [31:14] (R100). -/
def rsvField (v : Word) : BitVec 18 := v.extractLsb' 14 18

/-- A command that takes no immediate: legal only with IMM6 = 0 (R104 (c), R105). -/
def decodePlain (i : Instr) (imm : BitVec 6) : Decoded :=
  if imm = 0 then .command i else .illegal .immediateNotZero

/-- The opcode map of R101, given OP and IMM6. -/
def decodeOp (op : BitVec 8) (imm : BitVec 6) : Decoded :=
  if op = 0x01 then .command (.keyExpand imm.toNat)
  else if op = 0x02 then decodePlain .blockEnc imm
  else if op = 0x03 then decodePlain .blockDec imm
  else if op = 0x04 then .command (.ctrLoad imm.toNat)
  else if op = 0x05 then decodePlain .ctrSetval imm
  else if op = 0x06 then decodePlain .ctrSetbytes imm
  else if op = 0x07 then decodePlain .ctrInc imm
  else if op = 0x08 then decodePlain .ctrClone imm
  else if op = 0x09 then decodePlain .streamReset imm
  else if op = 0x0A then decodePlain .streamApply imm
  else .illegal .unknownOpcode

/-- R105: the reserved field is looked at first, then the opcode, then the immediate. -/
def decode (v : Word) : Decoded :=
  if rsvField v = 0 then decodeOp (opField v) (immField v) else .illegal .reservedBits

/-- The instruction the decoder reads from a table word of `nbits` bits, those above them zero. A command is
one 32-bit word (R100), so a number with a bit above bit 31 is no command word. -/
def decodeTableWord (nbits w : Nat) : Option Instr :=
  let v := w % 2 ^ nbits
  if v < 2 ^ 32 then
    match decode (BitVec.ofNat 32 v) with
    | .command i => some i
    | .illegal _ => none
  else none

/-- OP of each command (R101). -/
def opcode : Instr → BitVec 8
  | .keyExpand _ => 0x01
  | .blockEnc => 0x02
  | .blockDec => 0x03
  | .ctrLoad _ => 0x04
  | .ctrSetval => 0x05
  | .ctrSetbytes => 0x06
  | .ctrInc => 0x07
  | .ctrClone => 0x08
  | .streamReset => 0x09
  | .streamApply => 0x0A

/-- IMM6 of each command: the length of KEY_EXPAND and CTR_LOAD, 0 for every other (R101). -/
def immediate : Instr → Nat
  | .keyExpand keylen => keylen
  | .blockEnc => 0
  | .blockDec => 0
  | .ctrLoad nlen => nlen
  | .ctrSetval => 0
  | .ctrSetbytes => 0
  | .ctrInc => 0
  | .ctrClone => 0
  | .streamReset => 0
  | .streamApply => 0

/-- The word of a well-formed command: RSV = 0, then IMM6, then OP (R100, R107). -/
def encode (i : Instr) : Word :=
  (0 : BitVec 18) ++ BitVec.ofNat 6 (immediate i) ++ opcode i

end Sys2Proof
end

