-- ==== Sys2Proof/Config.lean ====
section
/-! DEFINITION. What an implementation fixes (the parameters of R10, held as data) and the free values
(constants without a body) for what the spec leaves unspecified. -/

namespace Sys2Proof

/-- What the k-th host read of CMD (ID6), or of a reserved or unmapped offset (ID5), returns: any value,
drawn anew at each such read (R77). DESIGN CHOICE of form; assumption 6. Safe: nothing constrains it. -/
opaque Config.freeRead : Nat → Word

/-- What a host read of a counter word while CTR_VALID = 0 (ID3), or of a round-key word while KEY_VALID = 0
or above row NR (ID4), returns: any value, the same for one offset until the next write or command (R77).
Arguments: the epoch and the offset. DESIGN CHOICE of form; assumption 7. Safe: nothing constrains it. -/
opaque Config.heldRead : Nat → Nat → Word

/-- What a KEY_EXPAND leaves in an EK row above Nr (R166): any value. Arguments: the epoch, the row, the word.
DESIGN CHOICE of form; assumption 8. Safe: nothing constrains it. -/
opaque Config.freeEkWord : Nat → Nat → Nat → Word

/-- What a KEY_EXPAND leaves in a DK row above Nr (R166); as `Config.freeEkWord`. Assumption 8. Safe. -/
opaque Config.freeDkWord : Nat → Nat → Nat → Word

namespace Machine

/-- Byte-addressed memory as (address, byte) pairs. Its canonical form is `Memory.wf` (Machine/Ops.lean). -/
abbrev Memory := List Host.Cell

/-- The parameter CTR_OVERFLOW (R10, ID1). -/
inductive CtrOverflow where
  /-- The increment carries through all 16 bytes: the default (R201). -/
  | carry128
  /-- The increment wraps inside the 4-byte suffix (R201). -/
  | suffix32
  /-- The increment is refused at suffix 0xFFFFFFFF (R201). -/
  | fault
deriving DecidableEq, Repr

/-- The parameters of rule R10. They are constant: no event changes them. Assumption 3. -/
structure Params where
  /-- DMEM_BYTES: the size of the data memory in bytes. -/
  dmemBytes : Nat
  /-- CTR_OVERFLOW: what an increment does at suffix 0xFFFFFFFF. -/
  ctrOverflow : CtrOverflow
  /-- DMEM_INIT: the content of the data memory after a reset, as data (assumption 4). -/
  dmemInit : Memory
deriving DecidableEq, Repr

/-- R10's defaults. DMEM_INIT has none; the all-zero content is a DESIGN CHOICE, unsafe (assumption 4). -/
def Params.standard : Params :=
  { dmemBytes := 4096, ctrOverflow := .carry128, dmemInit := [] }

end Machine

end Sys2Proof
end

