-- ==== Sys2Proof/Machine/State.lean ====
section
/-! DEFINITION. The state of the core (10_state.md), the host events that drive it, its result codes, and the
state after reset (R50). -/

namespace Sys2Proof.Machine

/-- The result codes of rule R270. The codes 11..15 are never produced, so the type has no name for them (ID8). -/
inductive ErrorCode where
  | success
  | keyMissing
  | keySizeInvalid
  | nonceSizeInvalid
  | counterValueInvalid
  | blockLengthInvalid
  | emptyInputInvalid
  | commandInvalid
  | rangeInvalid
  | counterMissing
  | counterExhausted
deriving DecidableEq, Repr

/-- One thing the outside does to the core (R30, R74, R300). Assumption 1. -/
inductive HostEvent where
  /-- A port read of `width` bits at byte offset `offset`. -/
  | read (width offset : Nat)
  /-- A port write of `width` bits at byte offset `offset`. -/
  | write (width offset : Nat) (value : Word)
  /-- The platform's reset input (R300). -/
  | reset
deriving DecidableEq, Repr

/-- There is no fault: a failing command reports in STATUS and the core goes on (R273, R276, R277), so no
reason exists for which the machine stops. Nobody raises one. Safe (assumption 10). -/
inductive Fault where
deriving DecidableEq, Repr

/-- Why the model gives a step no meaning. -/
inductive Refusal where
  /-- Raised by an arm of `exec` for a command without a meaning; no arm of this model does. Safe. -/
  | notModelled (mnemonic : String)
  /-- Raised by `perform` for a port access that is not 32 bits wide (R75, ID7). Safe. -/
  | accessWidth (bits : Nat)
  /-- Raised by `perform` for a 32-bit port access at an offset that is not a multiple of 4 (R75, ID7). Safe. -/
  | accessAlignment (offset : Nat)
deriving DecidableEq, Repr

/-- All the spec gives the core, and after it four fields of the model's own. -/
structure State where
  /-- DMEM_BYTES, CTR_OVERFLOW and DMEM_INIT (R10); INFO and STATUS.OVF show the first two. -/
  params : Params
  /-- ADDR (R35). -/
  addr : Word
  /-- LEN (R35). -/
  len : Word
  /-- SEED_LO (R36). -/
  seedLo : Word
  /-- SEED_HI (R36). -/
  seedHi : Word
  /-- NONCE0..NONCE2 (R37). -/
  nonce : Vector Word 3
  /-- KEY0..KEY7 (R38). -/
  key : Vector Word 8
  /-- STATUS.ERR (R39). -/
  err : ErrorCode
  /-- STATUS.STICKY (R39). -/
  sticky : Bool
  /-- KEY_VALID (R43). -/
  keyValid : Bool
  /-- NR (R43). -/
  nr : BitVec 4
  /-- EK (R43). -/
  ek : RoundKeys
  /-- DK (R43). -/
  dk : RoundKeys
  /-- CTR_VALID (R44). -/
  ctrValid : Bool
  /-- CTR (R44). -/
  ctr : Block
  /-- REM (R46). -/
  remainder : Block
  /-- CURSOR, an integer in 0..16 (R46). -/
  cursor : Fin 17
  /-- DMEM (R45). -/
  dmem : Memory
  /-- The model's own: the events still to come, oldest first (assumption 1). -/
  host : List HostEvent
  /-- The model's own: the word the latest event returned to the host, if it returned one (assumption 2). -/
  readData : Option Word
  /-- The model's own: selects the free values of `Config.heldRead`, `freeEkWord`, `freeDkWord` (assumptions 7, 8). -/
  epoch : Nat
  /-- The model's own: selects the free value of `Config.freeRead` (assumption 6). -/
  draws : Nat
deriving DecidableEq, Repr

/-- The outcome of a step of this machine. -/
abbrev Result := Host.Outcome State Fault Refusal

/-- R50, for given parameters. EK, DK, CTR and REM are unspecified after reset; the model names 0 for them
(DESIGN CHOICE, unsafe, assumption 5). -/
def State.resetWith (p : Params) : State where
  params := p
  addr := 0
  len := 0
  seedLo := 0
  seedHi := 0
  nonce := Vector.replicate 3 0
  key := Vector.replicate 8 0
  err := .success
  sticky := false
  keyValid := false
  nr := 0
  ek := Vector.replicate 15 (Vector.replicate 4 0)
  dk := Vector.replicate 15 (Vector.replicate 4 0)
  ctrValid := false
  ctr := Vector.replicate 16 0
  remainder := Vector.replicate 16 0
  cursor := 16
  dmem := p.dmemInit
  host := []
  readData := none
  epoch := 0
  draws := 0

/-- The machine right after reset, with R10's default parameters (R50, R300; assumptions 3, 4, 5). -/
def State.reset : State := State.resetWith Params.standard

end Sys2Proof.Machine
end

