-- ==== Sys2Proof/Machine/Ops.lean ====
section
/-! DEFINITION. The named operations: packing bytes into words (R13), data memory (R15), the updates of State,
and the two ways a command ends (R273, R275). A failing command is this core's only exception, and it is
reported, not trapped (R276): `raiseError` is the one operation that takes it, and there is no return from it (R277). -/

namespace Sys2Proof.Machine

/-! ## Bytes and words (R13) -/

/-- `byte(w, k)`: bits [8k+7 : 8k] of a word. -/
def byteOf (w : Word) (k : Nat) : Byte := (w >>> (8 * k)).setWidth 8

/-- `pack32(b0, b1, b2, b3)`: b0 is bits [31:24]. -/
def pack32 (b0 b1 b2 b3 : Byte) : Word := b0 ++ b1 ++ b2 ++ b3

/-- The four bytes of a word, big-endian: bits [31:24] first (R13, R71). -/
def wordBytes (w : Word) : List Byte := [byteOf w 3, byteOf w 2, byteOf w 1, byteOf w 0]

/-- `word(bs, i)` of a block: bytes 4i..4i+3, big-endian. -/
def blockWord (b : Block) (i : Fin 4) : Word :=
  pack32 b[4 * i.val] b[4 * i.val + 1] b[4 * i.val + 2] b[4 * i.val + 3]

/-- `rotl8_32`: rotates a word left by one byte. -/
def rotl8 (w : Word) : Word := (w <<< 8) ||| (w >>> 24)

/-- `rotr32`: rotates a word right by n bits, for n from 1 to 31. -/
def rotr32 (w : Word) (n : Nat) : Word := (w >>> n) ||| (w <<< (32 - n))

/-! ## Data memory (R15, R45)

A list of (address, byte) pairs with addresses strictly rising and no entry equal to `Memory.unlisted`. -/

/-- What an address that is not listed reads as (DESIGN CHOICE, unsafe, assumption 4). -/
def Memory.unlisted : Byte := 0

/-- The canonical form. -/
def Memory.wf (m : Memory) : Bool :=
  m.all (fun c => c.2 != Memory.unlisted) && decide (m.Pairwise fun c d => c.1 < d.1)

/-- Every listed address lies below `n`. -/
def Memory.below (m : Memory) (n : Nat) : Bool := m.all fun c => decide (c.1 < n)

/-- `DMEM[a]`. -/
def Memory.read : Memory → Nat → Byte
  | [], _ => Memory.unlisted
  | (b, v) :: m, a => if a = b then v else Memory.read m a

/-- Lists a cell in front of the first higher address. -/
def Memory.insert : Memory → Nat → Byte → Memory
  | [], a, v => [(a, v)]
  | (b, w) :: m, a, v => if a < b then (a, v) :: (b, w) :: m else (b, w) :: Memory.insert m a v

/-- `DMEM[a] <- v`: the old entry goes, and a new one is listed unless the byte is what an unlisted address reads as. -/
def Memory.write (m : Memory) (a : Nat) (v : Byte) : Memory :=
  let others : Memory := m.filter fun c => c.1 != a
  if v = Memory.unlisted then others else Memory.insert others a v

/-- `MemWrite(a, n, bs)` with n the length of bs: byte 0 at a (R15). -/
def Memory.writeBytes : Memory → Nat → List Byte → Memory
  | m, _, [] => m
  | m, a, b :: bs => Memory.writeBytes (Memory.write m a b) (a + 1) bs

/-- `MemRead(a, 16)` (R15). -/
def Memory.readBlock (m : Memory) (a : Nat) : Block := Vector.ofFn fun i => Memory.read m (a + i.val)

/-- `MemWrite(a, 16, b)` (R15). -/
def Memory.writeBlock (m : Memory) (a : Nat) (b : Block) : Memory := Memory.writeBytes m a b.toList

/-- The DMEM window word at byte address a (R71). -/
def Memory.readWord (m : Memory) (a : Nat) : Word :=
  pack32 (Memory.read m a) (Memory.read m (a + 1)) (Memory.read m (a + 2)) (Memory.read m (a + 3))

/-- A host write of the DMEM window word at byte address a (R71). -/
def Memory.writeWord (m : Memory) (a : Nat) (v : Word) : Memory :=
  Memory.writeBytes m a (wordBytes v)

/-! ## Updates of the state -/

/-- R273: the whole effect of a command that raises e. -/
def State.raise (s : State) (e : ErrorCode) : State := { s with err := e, sticky := true }

/-- R275: what every successful command does besides its own effect. -/
def State.complete (s : State) : State := { s with err := .success }

/-- Writes the data memory. -/
def State.setDmem (s : State) (m : Memory) : State := { s with dmem := m }

/-- Writes the counter block and sets CTR_VALID (R203, R205). -/
def State.loadCtr (s : State) (b : Block) : State := { s with ctr := b, ctrValid := true }

/-- Writes the counter block of a counter that is there (R204, R206). -/
def State.setCtr (s : State) (b : Block) : State := { s with ctr := b }

/-- Commits a key expansion (R166). -/
def State.setKeys (s : State) (nr : BitVec 4) (ek dk : RoundKeys) : State :=
  { s with keyValid := true, nr := nr, ek := ek, dk := dk }

/-- Writes CURSOR (R231). -/
def State.setCursor (s : State) (c : Fin 17) : State := { s with cursor := c }

/-- Takes the oldest event off the list of events; its answer, if it has one, comes later. -/
def State.takeEvent (s : State) (rest : List HostEvent) : State :=
  { s with host := rest, readData := none }

/-- A write or a command lies between the reads before it and the reads after it (R77). -/
def State.nextEpoch (s : State) : State := { s with epoch := s.epoch + 1 }

/-! ## How a command ends -/

/-- `raise E` (R16, R273): ERR and STICKY change and nothing else does. -/
def raiseError (e : ErrorCode) (s : State) : Result := .next (s.raise e)

/-- A command that reaches its end (R16, R275). -/
def succeed (s : State) : Result := .next s.complete

end Sys2Proof.Machine
end

