-- ==== Sys2Proof/Machine/Operands.lean ====
section
/-! DEFINITION. The operand forms (R103): the seed, the nonce bytes, the key bytes, and the range check on ADDR. -/

namespace Sys2Proof.Machine

/-- SEED, the unsigned 64-bit number SEED_HI ∥ SEED_LO (R36). -/
def seed (s : State) : Nat := (s.seedHi ++ s.seedLo).toNat

/-- R202: the seed fits the 4-byte suffix. -/
def seedValid (s : State) : Bool := decide (seed s < 2 ^ 32)

/-- Nonce byte j: byte 4i is in bits [31:24] of NONCEi (R37). -/
def nonceByte (s : State) (j : Fin 12) : Byte := byteOf s.nonce[j.val / 4] (3 - j.val % 4)

/-- Key byte j: byte 4i is in bits [31:24] of KEYi (R38, R160). -/
def keyByte (s : State) (j : Nat) : Byte := byteOf (s.key.getD (j / 4) 0) (3 - j % 4)

/-- Key word i, `word(K, i)` (R161). -/
def keyWord (s : State) (i : Nat) : Word :=
  pack32 (keyByte s (4 * i)) (keyByte s (4 * i + 1)) (keyByte s (4 * i + 2)) (keyByte s (4 * i + 3))

/-- R274: n bytes at ADDR lie inside the data memory, in mathematical integers. -/
def inRange (s : State) (n : Nat) : Bool := decide (s.addr.toNat + n ≤ s.params.dmemBytes)

end Sys2Proof.Machine
end

