-- ==== Sys2Proof/Machine/BlockTransform.lean ====
section
/-! DEFINITION. The block transform and BLOCK_ENC, BLOCK_DEC (42_block_transform.md). -/

namespace Sys2Proof.Machine

/-- The direction of the transform: the table set, the S-box and the offset triple of R180. -/
structure Direction where
  a0 : Byte → Word
  a1 : Byte → Word
  a2 : Byte → Word
  a3 : Byte → Word
  sb : Byte → Byte
  o1 : Fin 4
  o2 : Fin 4
  o3 : Fin 4

/-- R181: the forward table set, S and ShiftRows. -/
def forward : Direction := ⟨t1, t2, t3, t4, sbox, 1, 2, 3⟩

/-- R182: the inverse table set, SI and InvShiftRows. -/
def inverse : Direction := ⟨t5, t6, t7, t8, invSbox, 3, 2, 1⟩

/-- Row r of a round-key file; r never exceeds NR, at most 14 (assumption 19). -/
def keyRow (k : RoundKeys) (r : Nat) : RoundKey := k.getD r (Vector.replicate 4 0)

/-- The first key XOR of R180. -/
def addFirstKey (k : RoundKey) (x : Block) : RoundKey := Vector.ofFn fun i => blockWord x i ^^^ k[i]

/-- One middle round of R180: the four new words, all from the old ones (R184); index addition is modulo 4. -/
def middleRound (d : Direction) (k t : RoundKey) : RoundKey :=
  Vector.ofFn fun i =>
    d.a0 (byteOf t[i] 3) ^^^ d.a1 (byteOf t[i + d.o1] 2) ^^^ d.a2 (byteOf t[i + d.o2] 1)
      ^^^ d.a3 (byteOf t[i + d.o3] 0) ^^^ k[i]

/-- Middle rounds 1 to n of R180, in that order. -/
def middleRounds (d : Direction) (k : RoundKeys) : Nat → RoundKey → RoundKey
  | 0, t => t
  | n + 1, t => middleRound d (keyRow k (n + 1)) (middleRounds d k n t)

/-- The four output bytes of word i in the final round of R180, packed. -/
def finalWord (d : Direction) (k t : RoundKey) (i : Fin 4) : Word :=
  pack32 (d.sb (byteOf t[i] 3)) (d.sb (byteOf t[i + d.o1] 2)) (d.sb (byteOf t[i + d.o2] 1))
    (d.sb (byteOf t[i + d.o3] 0)) ^^^ k[i]

/-- The final round of R180: S-box per byte and the last key, out[4i+j] being byte 3-j of word i. -/
def finalRound (d : Direction) (k t : RoundKey) : Block :=
  Vector.ofFn fun j => byteOf (finalWord d k t ⟨j.val / 4, by omega⟩) (3 - j.val % 4)

/-- BT (R180). -/
def blockTransform (d : Direction) (k : RoundKeys) (nr : Nat) (x : Block) : Block :=
  finalRound d (keyRow k nr) (middleRounds d k (nr - 1) (addFirstKey (keyRow k 0) x))

/-- ENC (R181). -/
def encryptBlock (s : State) (x : Block) : Block := blockTransform forward s.ek s.nr.toNat x

/-- DEC (R182). -/
def decryptBlock (s : State) (x : Block) : Block := blockTransform inverse s.dk s.nr.toNat x

/-- The state with the block at ADDR replaced by its image under f: all 16 bytes are read before one is written (R184). -/
def transformAt (f : Block → Block) (s : State) : State :=
  s.setDmem (Memory.writeBlock s.dmem s.addr.toNat (f (Memory.readBlock s.dmem s.addr.toNat)))

/-- What BLOCK_ENC and BLOCK_DEC share: the checks of R272 and the in-place block (R185, R186). -/
def blockCommand (f : Block → Block) (s : State) : Result :=
  if s.keyValid = false then raiseError .keyMissing s
  else if s.len ≠ 16 then raiseError .blockLengthInvalid s
  else if inRange s 16 = false then raiseError .rangeInvalid s
  else succeed (transformAt f s)

/-- BLOCK_ENC (R185). -/
def execBlockEnc (s : State) : Result := blockCommand (encryptBlock s) s

/-- BLOCK_DEC (R186). -/
def execBlockDec (s : State) : Result := blockCommand (decryptBlock s) s

end Sys2Proof.Machine
end

