-- ==== Sys2Proof/Machine/Counter.lean ====
section
/-! DEFINITION. The counter and its five commands (43_counter.md). -/

namespace Sys2Proof.Machine

/-- `suffix(CTR)`: bytes 12..15, big-endian (R200). -/
def suffix (b : Block) : Word := blockWord b 3

/-- `setsuffix(CTR, v)` (R200). -/
def setSuffix (b : Block) (v : Word) : Block :=
  Vector.ofFn fun j => if j.val < 12 then b[j] else byteOf v (15 - j.val)

/-- The loop of R201's CARRY128 over the bytes below n, from byte n-1 upward in significance. -/
def carryFrom (b : Block) : Nat → Block
  | 0 => b
  | n + 1 =>
    if b.getD n 0 = 0xFF then carryFrom (b.setIfInBounds n 0) n
    else b.setIfInBounds n (b.getD n 0 + 1)

/-- INC (R201); `none` is EXHAUSTED. -/
def increment (o : CtrOverflow) (b : Block) : Option Block :=
  match o with
  | .carry128 => some (carryFrom b 16)
  | .suffix32 => some (setSuffix b (suffix b + 1))
  | .fault => if suffix b = 0xFFFFFFFF then none else some (setSuffix b (suffix b + 1))

/-- The counter block CTR_LOAD makes: the nonce, then the seed as suffix (R203). -/
def loadedCtr (s : State) : Block :=
  Vector.ofFn fun j => if h : j.val < 12 then nonceByte s ⟨j.val, h⟩ else byteOf s.seedLo (15 - j.val)

/-- CTR_LOAD (R203). -/
def execCtrLoad (nlen : Nat) (s : State) : Result :=
  if nlen ≠ 12 then raiseError .nonceSizeInvalid s
  else if seedValid s = false then raiseError .counterValueInvalid s
  else succeed (s.loadCtr (loadedCtr s))

/-- CTR_SETVAL (R204). -/
def execCtrSetval (s : State) : Result :=
  if s.ctrValid = false then raiseError .counterMissing s
  else if seedValid s = false then raiseError .counterValueInvalid s
  else succeed (s.setCtr (setSuffix s.ctr s.seedLo))

/-- CTR_SETBYTES (R205). -/
def execCtrSetbytes (s : State) : Result :=
  if s.len ≠ 16 then raiseError .counterValueInvalid s
  else if inRange s 16 = false then raiseError .rangeInvalid s
  else succeed (s.loadCtr (Memory.readBlock s.dmem s.addr.toNat))

/-- CTR_INC (R206). -/
def execCtrInc (s : State) : Result :=
  if s.ctrValid = false then raiseError .counterMissing s
  else match increment s.params.ctrOverflow s.ctr with
    | none => raiseError .counterExhausted s
    | some b => succeed (s.setCtr b)

/-- CTR_CLONE (R207): LEN is not read. -/
def execCtrClone (s : State) : Result :=
  if s.ctrValid = false then raiseError .counterMissing s
  else if inRange s 16 = false then raiseError .rangeInvalid s
  else succeed (s.setDmem (Memory.writeBlock s.dmem s.addr.toNat s.ctr))

end Sys2Proof.Machine
end

