-- ==== Sys2Proof/Machine/KeySchedule.lean ====
section
/-! DEFINITION. The key schedule and KEY_EXPAND (41_key_schedule.md). -/

namespace Sys2Proof.Machine

/-- What R162 makes of temp before it is XORed into w[t]. -/
def scheduleCore (nk t : Nat) (temp : Word) : Word :=
  if t % nk = 0 then subWord (rotl8 temp) ^^^ ((rcon (t / nk)).setWidth 32 <<< 24)
  else if 6 < nk ∧ t % nk = 4 then subWord temp
  else temp

/-- w[t] from w[0..t-1], t their number (R162). -/
def nextKeyWord (nk : Nat) (w : List Word) : Word :=
  w.getD (w.length - nk) 0 ^^^ scheduleCore nk w.length (w.getD (w.length - 1) 0)

/-- The loop of R162, n words still to compute. -/
def extendKeyWords (nk : Nat) : Nat → List Word → List Word
  | 0, w => w
  | n + 1, w => extendKeyWords nk n (w ++ [nextKeyWord nk w])

/-- Nr for a key of Nk words (R161). -/
def roundCount (nk : Nat) : Nat := nk + 6

/-- w[0 .. 4(Nr+1)-1] for the key in the KEY registers (R161, R162). -/
def keyWords (s : State) (nk : Nat) : List Word :=
  extendKeyWords nk (4 * (roundCount nk + 1) - nk) ((List.range nk).map (keyWord s))

/-- Row r of EKnew (R163). -/
def encRow (w : List Word) (r : Nat) : RoundKey := Vector.ofFn fun c => w.getD (4 * r + c.val) 0

/-- The inverse MixColumns of one word (R137, R164). -/
def invMixWord (v : Word) : Word :=
  u1 (byteOf v 3) ^^^ u2 (byteOf v 2) ^^^ u3 (byteOf v 1) ^^^ u4 (byteOf v 0)

/-- Row r of DKnew (R164): the rows reversed, all but the first and last inverse-mixed. -/
def decRow (w : List Word) (nr r : Nat) : RoundKey :=
  if r = 0 ∨ r = nr then encRow w (nr - r)
  else Vector.ofFn fun c => invMixWord (encRow w (nr - r))[c]

/-- EK after the commit of R166; rows above Nr are free values (assumption 8). -/
def committedEk (epoch nr : Nat) (w : List Word) : RoundKeys :=
  Vector.ofFn fun r =>
    if r.val ≤ nr then encRow w r.val else Vector.ofFn fun c => Config.freeEkWord epoch r.val c.val

/-- DK after the commit of R166; rows above Nr are free values (assumption 8). -/
def committedDk (epoch nr : Nat) (w : List Word) : RoundKeys :=
  Vector.ofFn fun r =>
    if r.val ≤ nr then decRow w nr r.val else Vector.ofFn fun c => Config.freeDkWord epoch r.val c.val

/-- The state with the key of nk words in the KEY registers expanded (R161-R164, R166). -/
def expandKey (nk : Nat) (s : State) : State :=
  s.setKeys (BitVec.ofNat 4 (roundCount nk))
    (committedEk s.epoch (roundCount nk) (keyWords s nk))
    (committedDk s.epoch (roundCount nk) (keyWords s nk))

/-- KEY_EXPAND (R165). -/
def execKeyExpand (keylen : Nat) (s : State) : Result :=
  if keylen = 0 then raiseError .keyMissing s
  else if keylen ≠ 16 ∧ keylen ≠ 24 ∧ keylen ≠ 32 then raiseError .keySizeInvalid s
  else succeed (expandKey (keylen / 4) s)

end Sys2Proof.Machine
end

