-- ==== Sys2Proof/Machine/Stream.lean ====
section
/-! DEFINITION. The streaming engine and its two commands (44_stream_engine.md). -/

namespace Sys2Proof.Machine

/-- `blocks(c, LEN)`: how many keystream blocks LEN bytes take from cursor c (R234). -/
def blocksNeeded (c len : Nat) : Nat := if len ≤ 16 - c then 0 else (len - (16 - c) + 15) / 16

/-- `exhausts(c, s0, LEN)` (R234). -/
def exhausts (c s0 len : Nat) : Bool := decide (1 ≤ blocksNeeded c len ∧ 2 ^ 32 ≤ s0 + blocksNeeded c len)

/-- INC where R232 uses it: EXHAUSTED does not occur there, and the model would keep the counter (assumption 21). -/
def advance (o : CtrOverflow) (b : Block) : Block := (increment o b).getD b

/-- A new keystream block: made from CTR before CTR is incremented, in the forward direction (R232, R233). -/
def refill (s : State) : State :=
  { s with remainder := encryptBlock s s.ctr, cursor := 0, ctr := advance s.params.ctrOverflow s.ctr }

/-- XORs the keystream byte at CURSOR into DMEM[a] and moves CURSOR on (R232). At CURSOR = 16 no byte is
pending; the loop refills first. -/
def consume (a : Nat) (s : State) : State :=
  if h : s.cursor.val < 16 then
    { s with
      dmem := Memory.write s.dmem a (Memory.read s.dmem a ^^^ s.remainder[s.cursor.val])
      cursor := ⟨s.cursor.val + 1, by omega⟩ }
  else s

/-- The body of R232's loop, for the byte at a. -/
def streamByte (a : Nat) (s : State) : State := consume a (if s.cursor.val = 16 then refill s else s)

/-- R232's loop over n bytes from a. -/
def streamBytes : Nat → Nat → State → State
  | _, 0, s => s
  | a, n + 1, s => streamBytes (a + 1) n (streamByte a s)

/-- STREAM_RESET (R231): the bytes of REM stay and are no longer read (assumption 18). -/
def execStreamReset (s : State) : Result := succeed (s.setCursor 16)

/-- STREAM_APPLY (R232). -/
def execStreamApply (s : State) : Result :=
  if s.keyValid = false then raiseError .keyMissing s
  else if s.ctrValid = false then raiseError .counterMissing s
  else if s.len = 0 then raiseError .emptyInputInvalid s
  else if inRange s s.len.toNat = false then raiseError .rangeInvalid s
  else if s.params.ctrOverflow = .fault ∧ exhausts s.cursor.val (suffix s.ctr).toNat s.len.toNat = true then
    raiseError .counterExhausted s
  else succeed (streamBytes s.addr.toNat s.len.toNat s)

end Sys2Proof.Machine
end

