-- ==== Sys2Proof/Machine/Dispatch.lean ====
section
/-! DEFINITION. The meaning of each command, one arm per constructor. -/

namespace Sys2Proof.Machine

def exec (i : Instr) (s : State) : Host.Outcome State Fault Refusal :=
  match i with
  | .keyExpand keylen => Sys2Proof.Machine.execKeyExpand keylen s
  | .blockEnc => Sys2Proof.Machine.execBlockEnc s
  | .blockDec => Sys2Proof.Machine.execBlockDec s
  | .ctrLoad nlen => Sys2Proof.Machine.execCtrLoad nlen s
  | .ctrSetval => Sys2Proof.Machine.execCtrSetval s
  | .ctrSetbytes => Sys2Proof.Machine.execCtrSetbytes s
  | .ctrInc => Sys2Proof.Machine.execCtrInc s
  | .ctrClone => Sys2Proof.Machine.execCtrClone s
  | .streamReset => Sys2Proof.Machine.execStreamReset s
  | .streamApply => Sys2Proof.Machine.execStreamApply s

end Sys2Proof.Machine
end

