-- ==== Sys2Proof/Machine/Flags.lean ====
section
/-! DEFINITION. STATUS: the numbers of the result codes (R270) and the fields of the word (R39). -/

namespace Sys2Proof.Machine

/-- The number of a result code (R270). -/
def errNumber : ErrorCode → BitVec 4
  | .success => 0
  | .keyMissing => 1
  | .keySizeInvalid => 2
  | .nonceSizeInvalid => 3
  | .counterValueInvalid => 4
  | .blockLengthInvalid => 5
  | .emptyInputInvalid => 6
  | .commandInvalid => 7
  | .rangeInvalid => 8
  | .counterMissing => 9
  | .counterExhausted => 10

/-- STATUS.OVF (R39). -/
def ovfNumber : CtrOverflow → BitVec 2
  | .carry128 => 0
  | .suffix32 => 1
  | .fault => 2

/-- STATUS.NR: 0 while KEY_VALID = 0 (R39). -/
def nrField (s : State) : BitVec 4 := if s.keyValid then s.nr else 0

/-- STATUS (R39), its fields from bit 31 down; reserved bits read 0. -/
def statusWord (s : State) : Word :=
  (0 : BitVec 10) ++ ovfNumber s.params.ctrOverflow ++ nrField s ++ (0 : BitVec 3)
    ++ BitVec.ofNat 5 s.cursor.val ++ (0 : BitVec 1) ++ BitVec.ofBool s.sticky
    ++ BitVec.ofBool s.ctrValid ++ BitVec.ofBool s.keyValid ++ errNumber s.err

end Sys2Proof.Machine
end

