-- ==== Sys2Proof/Machine/PortMap.lean ====
section
/-! DEFINITION. The port register map (R33): which register an offset names, and the offset of each register. -/

namespace Sys2Proof.Machine

/-- What an aligned port offset names (R33). -/
inductive PortReg where
  | cmd
  | status
  | addr
  | len
  | seedLo
  | seedHi
  | info
  | nonce (i : Fin 3)
  | ctr (i : Fin 4)
  | key (i : Fin 8)
  | ek (r : Fin 15) (c : Fin 4)
  | dk (r : Fin 15) (c : Fin 4)
  /-- The DMEM window word of bytes a..a+3 (R71). -/
  | dmem (a : Nat)
  /-- A reserved offset below 0x1000 (R48). -/
  | reserved
  /-- An offset at or above 0x1000 + DMEM_BYTES (R48). -/
  | unmapped
deriving DecidableEq, Repr

/-- The rows of R33 below 0x020. -/
def scalarReg (off : Nat) : PortReg :=
  if off = 0x000 then .cmd
  else if off = 0x004 then .status
  else if off = 0x008 then .addr
  else if off = 0x00C then .len
  else if off = 0x010 then .seedLo
  else if off = 0x014 then .seedHi
  else if off = 0x018 then .info
  else .reserved

/-- The rows of R33 from 0x020 to 0xFFF, the banks of registers and the reserved ranges between them. -/
def bankReg (off : Nat) : PortReg :=
  if off < 0x02C then .nonce (Fin.ofNat 3 ((off - 0x020) / 4))
  else if off < 0x030 then .reserved
  else if off < 0x040 then .ctr (Fin.ofNat 4 ((off - 0x030) / 4))
  else if off < 0x060 then .key (Fin.ofNat 8 ((off - 0x040) / 4))
  else if off < 0x100 then .reserved
  else if off < 0x1F0 then .ek (Fin.ofNat 15 ((off - 0x100) / 16)) (Fin.ofNat 4 ((off - 0x100) % 16 / 4))
  else if off < 0x200 then .reserved
  else if off < 0x2F0 then .dk (Fin.ofNat 15 ((off - 0x200) / 16)) (Fin.ofNat 4 ((off - 0x200) % 16 / 4))
  else .reserved

/-- R33: the register an aligned offset names. A window word lies wholly inside DMEM (assumption 15). -/
def portReg (dmemBytes off : Nat) : PortReg :=
  if off < 0x020 then scalarReg off
  else if off < 0x1000 then bankReg off
  else if off - 0x1000 + 4 ≤ dmemBytes then .dmem (off - 0x1000)
  else .unmapped

/-- The offset of a register that has one (R33). -/
def portOffset : PortReg → Option Nat
  | .cmd => some 0x000
  | .status => some 0x004
  | .addr => some 0x008
  | .len => some 0x00C
  | .seedLo => some 0x010
  | .seedHi => some 0x014
  | .info => some 0x018
  | .nonce i => some (0x020 + 4 * i.val)
  | .ctr i => some (0x030 + 4 * i.val)
  | .key i => some (0x040 + 4 * i.val)
  | .ek r c => some (0x100 + 16 * r.val + 4 * c.val)
  | .dk r c => some (0x200 + 16 * r.val + 4 * c.val)
  | .dmem a => some (0x1000 + a)
  | .reserved => none
  | .unmapped => none

end Sys2Proof.Machine
end

