-- ==== Sys2Proof/Machine/Port.lean ====
section
/-! DEFINITION. What one event does: a port read, a port write, a write to CMD, a reset (R33, R34, R48, R49, R71,
R75, R77, R300). -/

namespace Sys2Proof.Machine

/-- The reads whose value is unspecified and may differ each time (R34, R48, R77: ID5, ID6). -/
def drawsFree : PortReg → Bool
  | .cmd => true
  | .reserved => true
  | .unmapped => true
  | _ => false

/-- The word a 32-bit read at an aligned offset returns (R32, R39-R42, R48, R71). -/
def readValue (s : State) (off : Nat) : Word :=
  match portReg s.params.dmemBytes off with
  | .cmd => Config.freeRead s.draws
  | .status => statusWord s
  | .addr => s.addr
  | .len => s.len
  | .seedLo => s.seedLo
  | .seedHi => s.seedHi
  | .info => BitVec.ofNat 32 s.params.dmemBytes
  | .nonce i => s.nonce[i]
  | .ctr i => if s.ctrValid then blockWord s.ctr i else Config.heldRead s.epoch off
  | .key i => s.key[i]
  | .ek r c => if s.keyValid && decide (r.val ≤ s.nr.toNat) then s.ek[r][c] else Config.heldRead s.epoch off
  | .dk r c => if s.keyValid && decide (r.val ≤ s.nr.toNat) then s.dk[r][c] else Config.heldRead s.epoch off
  | .dmem a => Memory.readWord s.dmem a
  | .reserved => Config.freeRead s.draws
  | .unmapped => Config.freeRead s.draws

/-- A 32-bit read at an aligned offset: it returns a word and has no side effect (R77). -/
def hostRead (off : Nat) (s : State) : State :=
  { s with
    readData := some (readValue s off)
    draws := if drawsFree (portReg s.params.dmemBytes off) then s.draws + 1 else s.draws }

/-- A write to a register that is not CMD: operand registers and DMEM take the word, every other offset ignores
it (R32, R48, R49, R71). -/
def writeReg (r : PortReg) (v : Word) (s : State) : State :=
  match r with
  | .cmd => s
  | .status => s
  | .addr => { s with addr := v }
  | .len => { s with len := v }
  | .seedLo => { s with seedLo := v }
  | .seedHi => { s with seedHi := v }
  | .info => s
  | .nonce i => { s with nonce := s.nonce.set i v }
  | .ctr _ => s
  | .key i => { s with key := s.key.set i v }
  | .ek _ _ => s
  | .dk _ _ => s
  | .dmem a => s.setDmem (Memory.writeWord s.dmem a v)
  | .reserved => s
  | .unmapped => s

/-- The command of a word written to CMD (R34): a legal word performs its command, an illegal one raises
CommandInvalid (R104). -/
def runCommand (v : Word) (s : State) : Result :=
  match decode v with
  | .command i => exec i s
  | .illegal _ => raiseError .commandInvalid s

/-- A 32-bit write at an aligned offset. -/
def hostWrite (off : Nat) (v : Word) (s : State) : Result :=
  if portReg s.params.dmemBytes off = .cmd then runCommand v s.nextEpoch
  else .next (writeReg (portReg s.params.dmemBytes off) v s.nextEpoch)

/-- The reset event (R300): every piece of state takes its value of R50, the parameters stay, and so do the events
still to come and the numbering of the free values (assumption 13). -/
def platformReset (s : State) : State :=
  { State.resetWith s.params with host := s.host, epoch := s.epoch + 1, draws := s.draws }

/-- The port carries 32-bit transfers at multiples of 4; another access is refused (R75, ID7; assumption 9). -/
def checkAccess (width off : Nat) (go : Result) : Result :=
  if width ≠ 32 then .refused (.accessWidth width)
  else if off % 4 ≠ 0 then .refused (.accessAlignment off)
  else go

/-- One event, as one indivisible step (R74). -/
def perform (e : HostEvent) (s : State) : Result :=
  match e with
  | .read width off => checkAccess width off (.next (hostRead off s))
  | .write width off v => checkAccess width off (hostWrite off v s)
  | .reset => .next (platformReset s)

/-- With no event the core holds its state (R30, R284; assumption 12). -/
def idle (s : State) : State := s

/-- The write to CMD that issues a command word (R34, R106). -/
def issue (v : Word) : HostEvent := .write 32 0x000 v

end Sys2Proof.Machine
end

