-- ==== Sys2Proof/Machine/Step.lean ====
section
/-! DEFINITION. One step: the oldest event that has not happened yet happens (R74, R80). -/

namespace Sys2Proof.Machine

/-- One event, or none (R30, R74, R80). -/
def step (s : State) : Host.Outcome State Fault Refusal :=
  match s.host with
  | [] => .next (idle s)
  | e :: rest => perform e (s.takeEvent rest)

/-- s with a command word as its very next event: the host supplies the command stream (R31), and the next step
is the write of that word to CMD (R34). The bits above nbits are zero; a command is one 32-bit word (R100). -/
def State.withFetchWord (s : State) (nbits w : Nat) : State :=
  { s with host := issue (BitVec.ofNat 32 (w % 2 ^ nbits)) :: s.host }

end Sys2Proof.Machine
end

