-- ==== Sys2Proof/Machine/HostSequences.lean ====
section
/-! DEFINITION. The pseudo-instructions of rules R108 to R113: sequences of port transactions the host issues, and
what the host makes of the words their reads return. -/

namespace Sys2Proof.Machine

/-- `wr NAME, v` at the register's offset (R106). -/
def wr (off : Nat) (v : Word) : HostEvent := .write 32 off v

/-- `rd NAME` (R106). -/
def rd (off : Nat) : HostEvent := .read 32 off

/-- A command mnemonic: the write of its word to CMD (R106, R107). -/
def cmd (i : Instr) : HostEvent := issue (encode i)

/-- `word(bs, i)` of a byte string; bytes past its end are 0, which is the padding of R108. -/
def stringWord (bs : List Byte) (i : Nat) : Word :=
  pack32 (bs.getD (4 * i) 0) (bs.getD (4 * i + 1) 0) (bs.getD (4 * i + 2) 0) (bs.getD (4 * i + 3) 0)

/-- `setkey K`, for a K of at most 32 bytes (R108). -/
def setkeySequence (k : List Byte) : List HostEvent :=
  (List.range 8).map (fun i => wr (0x040 + 4 * i) (stringWord k i)) ++ [cmd (.keyExpand k.length)]

/-- `setnonce N`, for an N of 12 bytes (R109). -/
def setnonceSequence (n : List Byte) : List HostEvent :=
  [wr 0x020 (stringWord n 0), wr 0x024 (stringWord n 1), wr 0x028 (stringWord n 2)]

/-- `setseed n`, for n below 2^64 (R110). -/
def setseedSequence (n : Nat) : List HostEvent :=
  [wr 0x010 (BitVec.ofNat 32 (n % 2 ^ 32)), wr 0x014 (BitVec.ofNat 32 (n / 2 ^ 32))]

/-- `wrbytes a, B`, for an a and a length of B that are multiples of 4 (R111). -/
def wrbytesSequence (a : Nat) (bs : List Byte) : List HostEvent :=
  (List.range (bs.length / 4)).map fun j => wr (0x1000 + a + 4 * j) (stringWord bs j)

/-- The port reads of `rdbytes a, n`, for an a and n that are multiples of 4 (R111). -/
def rdbytesSequence (a n : Nat) : List HostEvent :=
  (List.range (n / 4)).map fun j => rd (0x1000 + a + 4 * j)

/-- The words the next k events return to the host, oldest first; a refused access returns none and ends them. -/
def answers : Nat → State → List Word
  | 0, _ => []
  | k + 1, s =>
    match step s with
    | .next t => t.readData.toList ++ answers k t
    | .fault _ => []
    | .refused _ => []

/-- The host's unpacking of words into a byte string, each word big-endian (R111, R71). -/
def unpackWords (ws : List Word) : List Byte := ws.flatMap wordBytes

/-- s with the reads of `rdbytes a, n` as its next events. -/
def issueRdbytes (a n : Nat) (s : State) : State := { s with host := rdbytesSequence a n ++ s.host }

/-- What `rdbytes a, n` gives the host that issues it at s: the n bytes its reads return, unpacked (R111). -/
def rdbytes (a n : Nat) (s : State) : List Byte := unpackWords (answers (n / 4) (issueRdbytes a n s))

/-- `ENCRYPT a, n, N, v` (R112); the v of R112's short form is 1 (D32). -/
def encryptSequence (a n : Word) (nonce : List Byte) (v : Nat) : List HostEvent :=
  setnonceSequence nonce ++ setseedSequence v
    ++ [cmd (.ctrLoad 12), cmd .streamReset, wr 0x008 a, wr 0x00C n, cmd .streamApply]

/-- `DECRYPT a, n, N, v`: the expansion of ENCRYPT (R113). -/
def decryptSequence (a n : Word) (nonce : List Byte) (v : Nat) : List HostEvent :=
  encryptSequence a n nonce v

end Sys2Proof.Machine
end

