-- ==== Sys2Proof/Safety.lean ====
section
/-! DEFINITION. The terms the claims use: the invariant of the machine, the accesses inside the port's interface,
the agreement of two states on everything the spec specifies, and the keystream of R250. -/

namespace Sys2Proof.Machine

/-! ## The invariant -/

/-- The legal parameter values of R10; DMEM_INIT is a canonical memory inside the data memory. -/
def paramsLegal (p : Params) : Bool :=
  decide (16 ≤ p.dmemBytes) && decide (p.dmemBytes ≤ 2 ^ 20) && decide (p.dmemBytes % 16 = 0)
    && Memory.wf p.dmemInit && Memory.below p.dmemInit p.dmemBytes

/-- NR is 10, 12 or 14 when a key is there, and 0 when none is (R39, R43). -/
def keyStateLegal (s : State) : Bool :=
  if s.keyValid then decide (s.nr = 10 ∨ s.nr = 12 ∨ s.nr = 14) else decide (s.nr = 0)

/-- An error on show has set STICKY (R273). -/
def errorIsSticky (s : State) : Bool := decide (s.err = .success) || s.sticky

/-- The data memory is canonical and lists nothing outside DMEM_BYTES (R45). -/
def dmemLegal (s : State) : Bool := Memory.wf s.dmem && Memory.below s.dmem s.params.dmemBytes

/-- The invariant of the machine. -/
def State.inv (s : State) : Bool :=
  paramsLegal s.params && keyStateLegal s && errorIsSticky s && dmemLegal s

/-- Row r of DK as R164 makes it from the rows of EK. -/
def mirroredRow (ek : RoundKeys) (nr r : Nat) : RoundKey :=
  if r = 0 ∨ r = nr then keyRow ek (nr - r)
  else Vector.ofFn fun c => invMixWord (keyRow ek (nr - r))[c]

/-- While a key is there, DK is the reversed and inverse-mixed EK (R164) in the rows that hold round keys. -/
def keysMatch (s : State) : Bool :=
  !s.keyValid || (List.range (s.nr.toNat + 1)).all fun r => decide (keyRow s.dk r = mirroredRow s.ek s.nr.toNat r)

/-! ## The interface -/

/-- An event the port's interface has: 32 bits at a multiple of 4, or a reset (R75, R300). -/
def inInterface : HostEvent → Bool
  | .read width off => decide (width = 32 ∧ off % 4 = 0)
  | .write width off _ => decide (width = 32 ∧ off % 4 = 0)
  | .reset => true

/-- The event is not a reset. -/
def notReset : HostEvent → Bool
  | .read _ _ => true
  | .write _ _ _ => true
  | .reset => false

/-! ## Unspecified content -/

/-- Two round-key files agree on rows 0..nr. -/
def rowsAgree (k l : RoundKeys) (nr : Nat) : Prop := ∀ r : Fin 15, r.val ≤ nr → k[r] = l[r]

/-- Two states agree on everything but what the spec leaves unspecified: round keys while KEY_VALID = 0 or above
row NR, the counter while CTR_VALID = 0, and REM while CURSOR = 16 (R50, ID2). -/
def specifiedAgree (s t : State) : Prop :=
  t = { s with ek := t.ek, dk := t.dk, ctr := t.ctr, remainder := t.remainder }
    ∧ (s.keyValid = true → rowsAgree s.ek t.ek s.nr.toNat ∧ rowsAgree s.dk t.dk s.nr.toNat)
    ∧ (s.ctrValid = true → s.ctr = t.ctr)
    ∧ (s.cursor.val < 16 → s.remainder = t.remainder)

/-! ## Counters and keystream -/

/-- A block as the big-endian integer of its 16 bytes. -/
def blockNat (b : Block) : Nat := b.toList.foldl (fun n x => 256 * n + x.toNat) 0

/-- INC n times (R250). -/
def incTimes (o : CtrOverflow) : Nat → Block → Block
  | 0, b => b
  | n + 1, b => advance o (incTimes o n b)

/-- Byte k of the keystream a STREAM_APPLY draws on, counted from REM[0]: the rest of REM is bytes CURSOR..15, and
bytes 16 and above come from the counter blocks CTR, INC(CTR), INC(INC(CTR)), ... (R232). -/
def keystreamByte (s : State) (k : Nat) : Byte :=
  if k < 16 then s.remainder.getD k 0
  else (encryptBlock s (incTimes s.params.ctrOverflow (k / 16 - 1) s.ctr)).getD (k % 16) 0

/-- N ∥ v, with v as 4 big-endian bytes (R250). -/
def nonceBlock (n : List Byte) (v : Nat) : Block :=
  Vector.ofFn fun j => if j.val < 12 then n.getD j.val 0 else byteOf (BitVec.ofNat 32 v) (15 - j.val)

/-- Byte i of KS(N, v, n) (R250). -/
def messageKeystreamByte (s : State) (n : List Byte) (v i : Nat) : Byte :=
  (encryptBlock s (incTimes s.params.ctrOverflow (i / 16) (nonceBlock n v))).getD (i % 16) 0

/-- A message of n bytes from initial value v fits the counter: always, but under FAULT only with at most
2^32 - 1 - v keystream blocks (R252). -/
def counterSuffices (o : CtrOverflow) (v n : Nat) : Prop :=
  o = .fault → (n + 15) / 16 ≤ 2 ^ 32 - 1 - v

end Sys2Proof.Machine
end

