-- ==== Sys2Proof/Certificates/Slice0/Obligations.lean ====
section
/-! DEFINITION. The statements about the machine, from the numbered rules of spec/. -/

open Sys2Proof Sys2Proof.Machine

/-! ## Encoding -/

/-- Every well-formed command's word (R107) decodes to that command (R105). -/
def Obligations.DecodeInvertsEncode : Prop :=
  ∀ i : Instr, i.wellFormed = true → decode (encode i) = .command i

/-- A legal word has one meaning: it is the word of the command it decodes to, which is well-formed (R105, R107). -/
def Obligations.EncodeInvertsDecode : Prop :=
  ∀ (v : Word) (i : Instr), decode v = .command i → i.wellFormed = true ∧ encode i = v

/-- R104: which words are illegal, and that an illegal command raises CommandInvalid and changes nothing else. -/
def Obligations.IllegalWordsRaiseCommandInvalid : Prop :=
  (∀ v : Word, (∃ why, decode v = .illegal why) ↔
    (v.toNat % 2 ^ 8 = 0x00 ∨ 0x0B ≤ v.toNat % 2 ^ 8)
      ∨ v.toNat / 2 ^ 14 ≠ 0
      ∨ (v.toNat / 2 ^ 8 % 2 ^ 6 ≠ 0 ∧ v.toNat % 2 ^ 8 ≠ 0x01 ∧ v.toNat % 2 ^ 8 ≠ 0x04))
  ∧ ∀ (s : State) (v : Word) (rest : List HostEvent) (why : IllegalWord),
      s.host = issue v :: rest → decode v = .illegal why →
      step s = .next { s with
        host := rest, readData := none, epoch := s.epoch + 1, err := .commandInvalid, sticky := true }

/-- Words written out from R107 and V60 decode as they should: one of each family, and illegal ones. -/
def Obligations.SampleWordsDecode : Prop :=
  decode 0x00001001 = .command (.keyExpand 16) ∧ decode 0x00002001 = .command (.keyExpand 32)
    ∧ decode 0x00000002 = .command .blockEnc ∧ decode 0x00000003 = .command .blockDec
    ∧ decode 0x00000C04 = .command (.ctrLoad 12) ∧ decode 0x00000007 = .command .ctrInc
    ∧ decode 0x00000009 = .command .streamReset ∧ decode 0x0000000A = .command .streamApply
    ∧ decode 0x00000102 = .illegal .immediateNotZero ∧ decode 0x0000000B = .illegal .unknownOpcode
    ∧ decode 0x00004009 = .illegal .reservedBits

/-- A step whose event is a write to CMD of a word that decodes to i is exec of i, after the event has left the list,
the answer is cleared and the epoch has moved on (the model's own fields). -/
def Obligations.StepRunsDecodedCommand : Prop :=
  ∀ (s : State) (v : Word) (rest : List HostEvent) (i : Instr),
    s.host = issue v :: rest → decode v = .command i →
    step s = exec i { s with host := rest, readData := none, epoch := s.epoch + 1 }

/-- Every register of R33 is found at its own offset. -/
def Obligations.RegistersAnswerAtTheirOffsets : Prop :=
  ∀ (dmemBytes off : Nat) (r : PortReg), portOffset r = some off → (∀ a, r = .dmem a → a + 4 ≤ dmemBytes) →
    portReg dmemBytes off = r

/-! ## Errors -/

/-- R273: a failing command changes STATUS.ERR and STATUS.STICKY, and nothing else. -/
def Obligations.FailingCommandChangesOnlyErrAndSticky : Prop :=
  ∀ (v : Word) (s t : State), runCommand v s = .next t → t.err ≠ .success →
    t = { s with err := t.err, sticky := true }

/-- R275: a successful command leaves STICKY; STICKY becomes 1 only by a failing command and 0 only by a reset. -/
def Obligations.StickyRecordsFailuresUntilReset : Prop :=
  (∀ (v : Word) (s t : State), runCommand v s = .next t → t.err = .success → t.sticky = s.sticky)
  ∧ (∀ s t : State, step s = .next t → s.sticky = false → t.sticky = true →
      t.err ≠ .success ∧ ∃ v rest, s.host = issue v :: rest)
  ∧ (∀ s t : State, step s = .next t → s.sticky = true → t.sticky = false → ∃ rest, s.host = .reset :: rest)

/-- R272: every command answers, and reports the first of its error conditions in the rule's order; one that reports
an error has had no other effect. -/
def Obligations.CommandsReportTheFirstFailingCheck : Prop :=
  (∀ (v : Word) (s : State), (∃ why, decode v = .illegal why) →
    runCommand v s = .next { s with err := .commandInvalid, sticky := true })
  ∧ ∀ (i : Instr) (s : State), ∃ t, exec i s = .next t
    ∧ (t.err ≠ .success → t = { s with err := t.err, sticky := true })
    ∧ t.err = match i with
      | .keyExpand n =>
        if n = 0 then .keyMissing else if n ≠ 16 ∧ n ≠ 24 ∧ n ≠ 32 then .keySizeInvalid else .success
      | .blockEnc =>
        if s.keyValid = false then .keyMissing else if s.len.toNat ≠ 16 then .blockLengthInvalid
        else if s.params.dmemBytes < s.addr.toNat + 16 then .rangeInvalid else .success
      | .blockDec =>
        if s.keyValid = false then .keyMissing else if s.len.toNat ≠ 16 then .blockLengthInvalid
        else if s.params.dmemBytes < s.addr.toNat + 16 then .rangeInvalid else .success
      | .ctrLoad n =>
        if n ≠ 12 then .nonceSizeInvalid
        else if 2 ^ 32 ≤ s.seedHi.toNat * 2 ^ 32 + s.seedLo.toNat then .counterValueInvalid else .success
      | .ctrSetval =>
        if s.ctrValid = false then .counterMissing
        else if 2 ^ 32 ≤ s.seedHi.toNat * 2 ^ 32 + s.seedLo.toNat then .counterValueInvalid else .success
      | .ctrSetbytes =>
        if s.len.toNat ≠ 16 then .counterValueInvalid
        else if s.params.dmemBytes < s.addr.toNat + 16 then .rangeInvalid else .success
      | .ctrInc =>
        if s.ctrValid = false then .counterMissing
        else if s.params.ctrOverflow = .fault ∧ (suffix s.ctr).toNat = 2 ^ 32 - 1 then .counterExhausted
        else .success
      | .ctrClone =>
        if s.ctrValid = false then .counterMissing
        else if s.params.dmemBytes < s.addr.toNat + 16 then .rangeInvalid else .success
      | .streamReset => .success
      | .streamApply =>
        if s.keyValid = false then .keyMissing else if s.ctrValid = false then .counterMissing
        else if s.len.toNat = 0 then .emptyInputInvalid
        else if s.params.dmemBytes < s.addr.toNat + s.len.toNat then .rangeInvalid
        else if s.params.ctrOverflow = .fault ∧ 16 < s.cursor.val + s.len.toNat
            ∧ 2 ^ 32 ≤ (suffix s.ctr).toNat + (s.cursor.val + s.len.toNat - 16 + 15) / 16 then .counterExhausted
        else .success

/-- R75: an access of the interface is answered; one of another width, or at another alignment, is refused by name. -/
def Obligations.InterfaceAccessesAreAnswered : Prop :=
  ∀ (s : State) (e : HostEvent) (rest : List HostEvent), s.host = e :: rest →
    (inInterface e = true → ∃ t, step s = .next t)
    ∧ ∀ (width off : Nat), (e = .read width off ∨ ∃ v, e = .write width off v) →
        (width ≠ 32 → step s = .refused (.accessWidth width))
        ∧ (width = 32 → off % 4 ≠ 0 → step s = .refused (.accessAlignment off))

/-! ## Key schedule -/

/-- KEY_EXPAND of a legal length completes: there is a word sequence w that starts with the key words and obeys the
recurrence of R162, EK row r holds w[4r..4r+3], NR and KEY_VALID are set, and nothing else but DK and ERR changes. -/
def Obligations.KeyExpandBuildsTheSchedule : Prop :=
  ∀ (n : Nat) (s : State), n = 16 ∨ n = 24 ∨ n = 32 →
    ∃ (t : State) (w : Nat → Word), exec (.keyExpand n) s = .next t
      ∧ (∀ i, i < n / 4 → w i = s.key.getD i 0)
      ∧ (∀ j, n / 4 ≤ j → j < 4 * (n / 4 + 7) → w j = w (j - n / 4) ^^^
          (if j % (n / 4) = 0 then subWord (rotl8 (w (j - 1))) ^^^ ((rcon (j / (n / 4))).setWidth 32 <<< 24)
           else if 6 < n / 4 ∧ j % (n / 4) = 4 then subWord (w (j - 1))
           else w (j - 1)))
      ∧ (∀ (r : Nat) (c : Fin 4), r ≤ n / 4 + 6 → (keyRow t.ek r)[c] = w (4 * r + c.val))
      ∧ t = { s with
          err := .success, keyValid := true, nr := BitVec.ofNat 4 (n / 4 + 6), ek := t.ek, dk := t.dk }

/-- R164: after a successful KEY_EXPAND, DK is EK with its rows reversed, all but the first and last through the
inverse mix. -/
def Obligations.DecryptionKeysAreReversedAndMixed : Prop :=
  ∀ (n : Nat) (s t : State), exec (.keyExpand n) s = .next t → t.err = .success →
    keyRow t.dk 0 = keyRow t.ek (n / 4 + 6)
    ∧ keyRow t.dk (n / 4 + 6) = keyRow t.ek 0
    ∧ ∀ (r : Nat) (c : Fin 4), 1 ≤ r → r < n / 4 + 6 →
        (keyRow t.dk r)[c] =
          u1 (byteOf (keyRow t.ek (n / 4 + 6 - r))[c] 3) ^^^ u2 (byteOf (keyRow t.ek (n / 4 + 6 - r))[c] 2)
            ^^^ u3 (byteOf (keyRow t.ek (n / 4 + 6 - r))[c] 1) ^^^ u4 (byteOf (keyRow t.ek (n / 4 + 6 - r))[c] 0)

/-! ## Block transform -/

/-- BLOCK_ENC completes: the 16 bytes at ADDR become ENC of what they were, every other byte and all other state
but ERR is unchanged (R185). -/
def Obligations.BlockEncReplacesTheBlock : Prop :=
  ∀ s : State, s.keyValid = true → s.len.toNat = 16 → s.addr.toNat + 16 ≤ s.params.dmemBytes →
    ∃ t, exec .blockEnc s = .next t
      ∧ (∀ i : Fin 16, Memory.read t.dmem (s.addr.toNat + i.val) =
          (encryptBlock s (Vector.ofFn fun j => Memory.read s.dmem (s.addr.toNat + j.val)))[i])
      ∧ (∀ a, a < s.addr.toNat ∨ s.addr.toNat + 16 ≤ a → Memory.read t.dmem a = Memory.read s.dmem a)
      ∧ t = { s with err := .success, dmem := t.dmem }

/-- BLOCK_DEC completes: the 16 bytes at ADDR become DEC of what they were, every other byte and all other state
but ERR is unchanged (R186). -/
def Obligations.BlockDecReplacesTheBlock : Prop :=
  ∀ s : State, s.keyValid = true → s.len.toNat = 16 → s.addr.toNat + 16 ≤ s.params.dmemBytes →
    ∃ t, exec .blockDec s = .next t
      ∧ (∀ i : Fin 16, Memory.read t.dmem (s.addr.toNat + i.val) =
          (decryptBlock s (Vector.ofFn fun j => Memory.read s.dmem (s.addr.toNat + j.val)))[i])
      ∧ (∀ a, a < s.addr.toNat ∨ s.addr.toNat + 16 ≤ a → Memory.read t.dmem a = Memory.read s.dmem a)
      ∧ t = { s with err := .success, dmem := t.dmem }

/-- R180, R181, R182: BT's words, round by round, and its output bytes; ENC and DEC are BT with the two table sets. -/
def Obligations.TransformFollowsTheRoundRule : Prop :=
  (∀ (d : Direction) (k : RoundKeys) (nr : Nat) (x : Block), 1 ≤ nr → nr ≤ 14 →
    ∃ t : Nat → Fin 4 → Word,
      (∀ i : Fin 4, t 0 i = blockWord x i ^^^ (keyRow k 0)[i])
      ∧ (∀ (r : Nat) (i : Fin 4), 1 ≤ r → r < nr → t r i =
          d.a0 (byteOf (t (r - 1) i) 3) ^^^ d.a1 (byteOf (t (r - 1) (i + d.o1)) 2)
            ^^^ d.a2 (byteOf (t (r - 1) (i + d.o2)) 1) ^^^ d.a3 (byteOf (t (r - 1) (i + d.o3)) 0)
            ^^^ (keyRow k r)[i])
      ∧ ∀ i : Fin 4,
          (blockTransform d k nr x)[4 * i.val] =
            d.sb (byteOf (t (nr - 1) i) 3) ^^^ byteOf (keyRow k nr)[i] 3
          ∧ (blockTransform d k nr x)[4 * i.val + 1] =
            d.sb (byteOf (t (nr - 1) (i + d.o1)) 2) ^^^ byteOf (keyRow k nr)[i] 2
          ∧ (blockTransform d k nr x)[4 * i.val + 2] =
            d.sb (byteOf (t (nr - 1) (i + d.o2)) 1) ^^^ byteOf (keyRow k nr)[i] 1
          ∧ (blockTransform d k nr x)[4 * i.val + 3] =
            d.sb (byteOf (t (nr - 1) (i + d.o3)) 0) ^^^ byteOf (keyRow k nr)[i] 0)
  ∧ ∀ (s : State) (x : Block),
      encryptBlock s x = blockTransform ⟨t1, t2, t3, t4, sbox, 1, 2, 3⟩ s.ek s.nr.toNat x
      ∧ decryptBlock s x = blockTransform ⟨t5, t6, t7, t8, invSbox, 3, 2, 1⟩ s.dk s.nr.toNat x

/-- R183: with the round keys of any valid key, DEC inverts ENC and ENC inverts DEC on every block. -/
def Obligations.DecryptionInvertsEncryption : Prop :=
  ∀ (n : Nat) (s t : State) (x : Block), exec (.keyExpand n) s = .next t → t.err = .success →
    decryptBlock t (encryptBlock t x) = x ∧ encryptBlock t (decryptBlock t x) = x

/-- After a successful BLOCK_ENC, a BLOCK_DEC of the same bytes restores the state as it was, but for ERR. -/
def Obligations.BlockDecUndoesBlockEnc : Prop :=
  ∀ s t : State, s.inv = true → keysMatch s = true → exec .blockEnc s = .next t → t.err = .success →
    exec .blockDec t = .next { s with err := .success }

/-- The table round of either direction is the byte substitution, the row shift and the (inverse) MixColumns matrix,
XORed with the round key (R135, R136, R180-R182). -/
def Obligations.TableRoundsAreMixColumns : Prop :=
  ∀ (k t : RoundKey) (i : Fin 4),
    (∀ b0 b1 b2 b3 : Byte,
      b0 = sbox (byteOf t[i] 3) → b1 = sbox (byteOf t[i + 1] 2) → b2 = sbox (byteOf t[i + 2] 1) →
      b3 = sbox (byteOf t[i + 3] 0) →
      (middleRound forward k t)[i] = k[i] ^^^ pack32
        (gmul b0 2 ^^^ gmul b1 3 ^^^ b2 ^^^ b3)
        (b0 ^^^ gmul b1 2 ^^^ gmul b2 3 ^^^ b3)
        (b0 ^^^ b1 ^^^ gmul b2 2 ^^^ gmul b3 3)
        (gmul b0 3 ^^^ b1 ^^^ b2 ^^^ gmul b3 2))
    ∧ (∀ b0 b1 b2 b3 : Byte,
      b0 = invSbox (byteOf t[i] 3) → b1 = invSbox (byteOf t[i + 3] 2) → b2 = invSbox (byteOf t[i + 2] 1) →
      b3 = invSbox (byteOf t[i + 1] 0) →
      (middleRound inverse k t)[i] = k[i] ^^^ pack32
        (gmul b0 14 ^^^ gmul b1 11 ^^^ gmul b2 13 ^^^ gmul b3 9)
        (gmul b0 9 ^^^ gmul b1 14 ^^^ gmul b2 11 ^^^ gmul b3 13)
        (gmul b0 13 ^^^ gmul b1 9 ^^^ gmul b2 14 ^^^ gmul b3 11)
        (gmul b0 11 ^^^ gmul b1 13 ^^^ gmul b2 9 ^^^ gmul b3 14))

/-- The grids of R132 and R133: S is the affine map of the field inverse, and SI is the inverse permutation of S. -/
def Obligations.SboxIsAffineMapOfFieldInverse : Prop :=
  ∀ x b : Byte, (x = 0 → b = 0) → (x ≠ 0 → gmul x b = 1) →
    sbox x = b ^^^ b.rotateLeft 1 ^^^ b.rotateLeft 2 ^^^ b.rotateLeft 3 ^^^ b.rotateLeft 4 ^^^ 0x63
    ∧ invSbox (sbox x) = x ∧ sbox (invSbox x) = x

/-! ## Counter -/

/-- CTR_LOAD 12 with a valid seed completes: CTR is the nonce and the seed, CTR_VALID is set, nothing else but ERR
changes (R203). -/
def Obligations.CtrLoadSetsNonceAndSeed : Prop :=
  ∀ s : State, s.seedHi.toNat * 2 ^ 32 + s.seedLo.toNat < 2 ^ 32 →
    ∃ t, exec (.ctrLoad 12) s = .next t
      ∧ (∀ j : Fin 16, j.val < 12 → t.ctr[j] = byteOf (s.nonce.getD (j.val / 4) 0) (3 - j.val % 4))
      ∧ (∀ j : Fin 16, 12 ≤ j.val → t.ctr[j] = byteOf s.seedLo (15 - j.val))
      ∧ t = { s with err := .success, ctrValid := true, ctr := t.ctr }

/-- CTR_SETVAL with a counter and a valid seed completes: the suffix is the seed, bytes 0..11 and all else but ERR
are unchanged (R204). -/
def Obligations.CtrSetvalReplacesTheSuffix : Prop :=
  ∀ s : State, s.ctrValid = true → s.seedHi.toNat * 2 ^ 32 + s.seedLo.toNat < 2 ^ 32 →
    ∃ t, exec .ctrSetval s = .next t
      ∧ (∀ j : Fin 16, j.val < 12 → t.ctr[j] = s.ctr[j])
      ∧ suffix t.ctr = s.seedLo
      ∧ t = { s with err := .success, ctr := t.ctr }

/-- CTR_SETBYTES completes: CTR is the 16 bytes at ADDR, CTR_VALID is set, nothing else but ERR changes (R205). -/
def Obligations.CtrSetbytesLoadsTheBlock : Prop :=
  ∀ s : State, s.len.toNat = 16 → s.addr.toNat + 16 ≤ s.params.dmemBytes →
    ∃ t, exec .ctrSetbytes s = .next t
      ∧ (∀ j : Fin 16, t.ctr[j] = Memory.read s.dmem (s.addr.toNat + j.val))
      ∧ t = { s with err := .success, ctrValid := true, ctr := t.ctr }

/-- CTR_INC completes, unless FAULT stops it: under CARRY128 the block as a big-endian integer grows by 1 modulo
2^128, under SUFFIX32 and FAULT the suffix grows by 1 modulo 2^32 and bytes 0..11 stay; nothing else but ERR changes
(R201, R206). -/
def Obligations.CtrIncAddsOne : Prop :=
  ∀ s : State, s.ctrValid = true →
    ¬(s.params.ctrOverflow = .fault ∧ (suffix s.ctr).toNat = 2 ^ 32 - 1) →
    ∃ t, exec .ctrInc s = .next t
      ∧ (s.params.ctrOverflow = .carry128 → blockNat t.ctr = (blockNat s.ctr + 1) % 2 ^ 128)
      ∧ (s.params.ctrOverflow ≠ .carry128 →
          (suffix t.ctr).toNat = ((suffix s.ctr).toNat + 1) % 2 ^ 32
          ∧ ∀ j : Fin 16, j.val < 12 → t.ctr[j] = s.ctr[j])
      ∧ t = { s with err := .success, ctr := t.ctr }

/-- Below suffix 0xFFFFFFFF the three policies agree; at it FAULT refuses, SUFFIX32 zeroes the suffix alone, and
CARRY128 zeroes it and carries on, wrapping to all zeros exactly when every byte is 0xFF (R201). -/
def Obligations.IncrementPoliciesDifferOnlyAtMaximum : Prop :=
  (∀ (o : CtrOverflow) (b : Block), suffix b ≠ 0xFFFFFFFF → increment o b = some (setSuffix b (suffix b + 1)))
  ∧ ∀ b : Block, suffix b = 0xFFFFFFFF →
      increment .fault b = none
      ∧ increment .suffix32 b = some (setSuffix b 0)
      ∧ ∃ d, increment .carry128 b = some d ∧ suffix d = 0
        ∧ (d = Vector.replicate 16 0 ↔ b = Vector.replicate 16 0xFF)
        ∧ d[11] = b[11] + 1

/-- CTR_CLONE completes: the 16 bytes at ADDR become the counter block, every other byte and all other state but ERR
is unchanged; LEN does not matter (R207). -/
def Obligations.CtrCloneStoresTheCounter : Prop :=
  ∀ s : State, s.ctrValid = true → s.addr.toNat + 16 ≤ s.params.dmemBytes →
    ∃ t, exec .ctrClone s = .next t
      ∧ (∀ j : Fin 16, Memory.read t.dmem (s.addr.toNat + j.val) = s.ctr[j])
      ∧ (∀ a, a < s.addr.toNat ∨ s.addr.toNat + 16 ≤ a → Memory.read t.dmem a = Memory.read s.dmem a)
      ∧ t = { s with err := .success, dmem := t.dmem }

/-- As long as the 16 bytes of a clone are left alone, CTR_SETBYTES from its address restores the cloned counter,
whatever has happened to the counter since (R207). -/
def Obligations.SetbytesRestoresTheClone : Prop :=
  ∀ s t u : State, exec .ctrClone s = .next t → t.err = .success →
    u.addr = s.addr → u.len.toNat = 16 → u.params = s.params →
    (∀ j, j < 16 → Memory.read u.dmem (s.addr.toNat + j) = Memory.read t.dmem (s.addr.toNat + j)) →
    exec .ctrSetbytes u = .next { u with err := .success, ctrValid := true, ctr := s.ctr }

/-! ## Stream engine -/

/-- STREAM_RESET completes in every state: CURSOR is 16, and nothing but ERR and the bytes of REM, which are then no
longer read, may change (R231). -/
def Obligations.StreamResetEmptiesTheStream : Prop :=
  ∀ s : State, ∃ t, exec .streamReset s = .next t
    ∧ t = { s with err := .success, cursor := 16, remainder := t.remainder }

/-- STREAM_APPLY completes when its checks hold: byte i of the range is XORed with keystream byte CURSOR + i, the
counter is incremented once for each of the k blocks generated, CURSOR and REM end as R232's loop leaves them, and
every other byte and all other state but ERR is unchanged. -/
def Obligations.StreamApplyXorsTheKeystream : Prop :=
  ∀ (s : State) (k : Nat), s.keyValid = true → s.ctrValid = true → 1 ≤ s.len.toNat →
    s.addr.toNat + s.len.toNat ≤ s.params.dmemBytes →
    k = (s.cursor.val + s.len.toNat - 16 + 15) / 16 →
    (s.params.ctrOverflow = .fault → 1 ≤ k → (suffix s.ctr).toNat + k < 2 ^ 32) →
    ∃ t, exec .streamApply s = .next t
      ∧ (∀ i, i < s.len.toNat → Memory.read t.dmem (s.addr.toNat + i) =
          Memory.read s.dmem (s.addr.toNat + i) ^^^ keystreamByte s (s.cursor.val + i))
      ∧ (∀ a, a < s.addr.toNat ∨ s.addr.toNat + s.len.toNat ≤ a → Memory.read t.dmem a = Memory.read s.dmem a)
      ∧ t.ctr = incTimes s.params.ctrOverflow k s.ctr
      ∧ t.cursor.val = s.cursor.val + s.len.toNat - 16 * k
      ∧ (k = 0 → t.remainder = s.remainder)
      ∧ (1 ≤ k → t.remainder = encryptBlock s (incTimes s.params.ctrOverflow (k - 1) s.ctr))
      ∧ t = { s with
          err := .success, dmem := t.dmem, ctr := t.ctr, remainder := t.remainder, cursor := t.cursor }

/-- R235 for two adjacent pieces of m and n bytes: both STREAM_APPLY commands succeed when the one over the whole
message does, and they leave what it leaves, but for ADDR and LEN. -/
def Obligations.StreamApplySplitsAnywhere : Prop :=
  ∀ (s t : State) (m n : Word), s.inv = true → exec .streamApply s = .next t → t.err = .success →
    1 ≤ m.toNat → 1 ≤ n.toNat → s.len.toNat = m.toNat + n.toNat →
    ∃ u, exec .streamApply { s with len := m } = .next u ∧ u.err = .success
      ∧ exec .streamApply { u with addr := s.addr + m, len := n }
          = .next { t with addr := s.addr + m, len := n }

/-- R236: a second STREAM_APPLY over the same bytes from the same counter and stream state restores the data memory. -/
def Obligations.StreamApplyIsSelfInverse : Prop :=
  ∀ s t : State, s.inv = true → exec .streamApply s = .next t → t.err = .success →
    exec .streamApply { t with ctr := s.ctr, remainder := s.remainder, cursor := s.cursor }
      = .next { t with dmem := s.dmem }

/-- R234: the exhaustion pre-check holds exactly when one of the increments of the command would find the suffix at
0xFFFFFFFF. -/
def Obligations.ExhaustionCheckIsExact : Prop :=
  ∀ (c : Fin 17) (b : Block) (len : Nat), exhausts c.val (suffix b).toNat len = true ↔
    ∃ j, j < (c.val + len - 16 + 15) / 16 ∧ increment .fault (incTimes .fault j b) = none

/-! ## Host sequences -/

/-- R250: with an expanded key, the transactions of ENCRYPT a, n, N, v leave the message XORed with KS(N, v, n), every
other byte as it was, and no error. -/
def Obligations.EncryptSequenceXorsTheKeystream : Prop :=
  ∀ (s : State) (a n : Word) (nonce : List Byte) (v : Nat), s.keyValid = true → 1 ≤ n.toNat →
    a.toNat + n.toNat ≤ s.params.dmemBytes → nonce.length = 12 → v < 2 ^ 32 →
    counterSuffices s.params.ctrOverflow v n.toNat →
    ∃ t, Host.Core.run Sys2Proof.core 10 { s with host := encryptSequence a n nonce v } = .next t
      ∧ t.host = [] ∧ t.err = .success
      ∧ (∀ i, i < n.toNat → Memory.read t.dmem (a.toNat + i) =
          Memory.read s.dmem (a.toNat + i) ^^^ messageKeystreamByte s nonce v i)
      ∧ ∀ b, b < a.toNat ∨ a.toNat + n.toNat ≤ b → Memory.read t.dmem b = Memory.read s.dmem b

/-- R252: DECRYPT after ENCRYPT, with the same nonce and initial value, restores every byte of the data memory. -/
def Obligations.DecryptSequenceRestoresThePlaintext : Prop :=
  ∀ (s : State) (a n : Word) (nonce : List Byte) (v : Nat), s.keyValid = true → 1 ≤ n.toNat →
    a.toNat + n.toNat ≤ s.params.dmemBytes → nonce.length = 12 → v < 2 ^ 32 →
    counterSuffices s.params.ctrOverflow v n.toNat →
    ∃ t, Host.Core.run Sys2Proof.core 20
        { s with host := encryptSequence a n nonce v ++ decryptSequence a n nonce v } = .next t
      ∧ t.host = [] ∧ t.err = .success ∧ ∀ b, Memory.read t.dmem b = Memory.read s.dmem b

/-- R257, V50: two ENCRYPT sequences with the same key, nonce, initial value and plaintext, from any two states,
leave the same ciphertext, counter and cursor. -/
def Obligations.EncryptSequenceIsDeterministic : Prop :=
  ∀ (s u : State) (a n : Word) (nonce : List Byte) (v : Nat),
    s.keyValid = true → 1 ≤ n.toNat → a.toNat + n.toNat ≤ s.params.dmemBytes → nonce.length = 12 → v < 2 ^ 32 →
    counterSuffices s.params.ctrOverflow v n.toNat →
    u.keyValid = true → u.params = s.params → u.nr = s.nr → u.ek = s.ek →
    (∀ i, i < n.toNat → Memory.read u.dmem (a.toNat + i) = Memory.read s.dmem (a.toNat + i)) →
    ∃ t w, Host.Core.run Sys2Proof.core 10 { s with host := encryptSequence a n nonce v } = .next t
      ∧ Host.Core.run Sys2Proof.core 10 { u with host := encryptSequence a n nonce v } = .next w
      ∧ (∀ i, i < n.toNat → Memory.read w.dmem (a.toNat + i) = Memory.read t.dmem (a.toNat + i))
      ∧ w.ctr = t.ctr ∧ w.cursor = t.cursor

/-! ## What writes what -/

/-- No command writes an operand register or a parameter (R10, R32), nor a field that is the model's own. -/
def Obligations.CommandsNeverWriteOperands : Prop :=
  ∀ (v : Word) (s t : State), runCommand v s = .next t →
    t.addr = s.addr ∧ t.len = s.len ∧ t.seedLo = s.seedLo ∧ t.seedHi = s.seedHi ∧ t.nonce = s.nonce ∧ t.key = s.key
      ∧ t.params = s.params ∧ t.host = s.host ∧ t.readData = s.readData ∧ t.epoch = s.epoch ∧ t.draws = s.draws

/-- Only a successful KEY_EXPAND, or a reset, changes EK, DK, NR or KEY_VALID (R43, R166). -/
def Obligations.OnlyKeyExpandWritesRoundKeys : Prop :=
  ∀ s t : State, step s = .next t →
    (t.ek ≠ s.ek ∨ t.dk ≠ s.dk ∨ t.nr ≠ s.nr ∨ t.keyValid ≠ s.keyValid) →
    (∃ rest, s.host = .reset :: rest)
    ∨ ∃ v n rest, s.host = issue v :: rest ∧ decode v = .command (.keyExpand n) ∧ t.err = .success

/-- Only STREAM_RESET and STREAM_APPLY, or a reset, change REM or CURSOR (R46, R230). -/
def Obligations.OnlyStreamCommandsWriteTheStream : Prop :=
  ∀ s t : State, step s = .next t → (t.remainder ≠ s.remainder ∨ t.cursor ≠ s.cursor) →
    (∃ rest, s.host = .reset :: rest)
    ∨ ∃ v rest, s.host = issue v :: rest
        ∧ (decode v = .command .streamReset ∨ decode v = .command .streamApply) ∧ t.err = .success

/-- CTR changes only by CTR_LOAD, CTR_SETVAL, CTR_SETBYTES, CTR_INC, STREAM_APPLY or a reset (R281), and CTR_VALID
only by CTR_LOAD, CTR_SETBYTES or a reset (R44). -/
def Obligations.OnlyCounterCommandsWriteTheCounter : Prop :=
  ∀ s t : State, step s = .next t → (t.ctr ≠ s.ctr ∨ t.ctrValid ≠ s.ctrValid) →
    (∃ rest, s.host = .reset :: rest)
    ∨ ∃ v i rest, s.host = issue v :: rest ∧ decode v = .command i ∧ t.err = .success
        ∧ ((∃ n, i = .ctrLoad n) ∨ i = .ctrSetbytes
          ∨ ((i = .ctrSetval ∨ i = .ctrInc ∨ i = .streamApply) ∧ t.ctrValid = s.ctrValid))

/-- A byte of DMEM changes only by a window write of its word, by a BLOCK_ENC, BLOCK_DEC or CTR_CLONE whose 16 bytes
hold it, by a STREAM_APPLY whose LEN bytes hold it, or by a reset (R71, R76, R77). -/
def Obligations.DmemChangesOnlyWhereWritten : Prop :=
  ∀ (s t : State) (b : Nat), step s = .next t → Memory.read t.dmem b ≠ Memory.read s.dmem b →
    (∃ rest, s.host = .reset :: rest)
    ∨ (∃ off v rest, s.host = .write 32 off v :: rest ∧ 0x1000 + b < off + 4 ∧ off ≤ 0x1000 + b)
    ∨ ∃ v i rest, s.host = issue v :: rest ∧ decode v = .command i ∧ t.err = .success ∧ s.addr.toNat ≤ b
        ∧ (((i = .blockEnc ∨ i = .blockDec ∨ i = .ctrClone) ∧ b < s.addr.toNat + 16)
          ∨ (i = .streamApply ∧ b < s.addr.toNat + s.len.toNat))

/-- The nonce part of the counter, bytes 0..11, changes only by CTR_LOAD and CTR_SETBYTES, or under CARRY128 by an
increment that carries out of suffix 0xFFFFFFFF (R44). -/
def Obligations.NoncePartChangesOnlyByLoadOrCarry : Prop :=
  ∀ (i : Instr) (s t : State) (j : Fin 16), exec i s = .next t → j.val < 12 → t.ctr[j] ≠ s.ctr[j] →
    (∃ n, i = .ctrLoad n) ∨ i = .ctrSetbytes
    ∨ (s.params.ctrOverflow = .carry128
        ∧ ((i = .ctrInc ∧ (suffix s.ctr).toNat = 2 ^ 32 - 1)
          ∨ (i = .streamApply
            ∧ 2 ^ 32 ≤ (suffix s.ctr).toNat + (s.cursor.val + s.len.toNat - 16 + 15) / 16)))

/-- KEY_VALID, CTR_VALID and STICKY, once set, stay 1 until the next reset (R302). -/
def Obligations.ValidFlagsStayUntilReset : Prop :=
  ∀ s t : State, step s = .next t → (∀ rest, s.host ≠ .reset :: rest) →
    (s.keyValid = true → t.keyValid = true) ∧ (s.ctrValid = true → t.ctrValid = true)
      ∧ (s.sticky = true → t.sticky = true)

/-- The KEY registers are read by KEY_EXPAND alone, and only in the first KEYLEN bytes; the NONCE registers are read
by CTR_LOAD alone (R37, R38). -/
def Obligations.KeyAndNonceAreReadOnlyByTheirCommands : Prop :=
  (∀ (i : Instr) (s : State) (k : Vector Word 8), (∀ n, i ≠ .keyExpand n) →
    ∃ t, exec i s = .next t ∧ exec i { s with key := k } = .next { t with key := k })
  ∧ (∀ (n : Nat) (s : State) (k : Vector Word 8), (∀ j : Fin 8, 4 * j.val < n → k[j] = s.key[j]) →
    ∃ t, exec (.keyExpand n) s = .next t ∧ exec (.keyExpand n) { s with key := k } = .next { t with key := k })
  ∧ ∀ (i : Instr) (s : State) (x : Vector Word 3), (∀ n, i ≠ .ctrLoad n) →
    ∃ t, exec i s = .next t ∧ exec i { s with nonce := x } = .next { t with nonce := x }

/-! ## Port -/

/-- R77: a read changes nothing but what it returns to the host (and the model's own list and draw count), and a second
read of an offset, with only reads in between, returns the same word unless the offset is CMD, reserved or unmapped. -/
def Obligations.ReadsHaveNoSideEffects : Prop :=
  (∀ (s : State) (off : Nat) (rest : List HostEvent), s.host = .read 32 off :: rest → off % 4 = 0 →
    ∃ w d, step s = .next { s with host := rest, readData := some w, draws := d })
  ∧ ∀ (s t u x : State) (off : Nat) (rest more : List HostEvent),
      s.host = .read 32 off :: rest → t.host = .read 32 off :: more → off % 4 = 0 →
      t = { s with host := t.host, readData := t.readData, draws := t.draws } →
      portReg s.params.dmemBytes off ≠ .cmd → portReg s.params.dmemBytes off ≠ .reserved →
      portReg s.params.dmemBytes off ≠ .unmapped →
      step s = .next u → step t = .next x → x.readData = u.readData

/-- R39: a read of STATUS returns a word with these fields; reserved bits read 0. The numbers of ERR are R270's. -/
def Obligations.StatusReadsItsFields : Prop :=
  ∀ (s : State) (rest : List HostEvent), s.host = .read 32 0x004 :: rest →
    ∃ t w, step s = .next t ∧ t.readData = some w
      ∧ (w.extractLsb' 0 4).toNat = (match s.err with
          | .success => 0 | .keyMissing => 1 | .keySizeInvalid => 2 | .nonceSizeInvalid => 3
          | .counterValueInvalid => 4 | .blockLengthInvalid => 5 | .emptyInputInvalid => 6
          | .commandInvalid => 7 | .rangeInvalid => 8 | .counterMissing => 9 | .counterExhausted => 10)
      ∧ w.getLsbD 4 = s.keyValid ∧ w.getLsbD 5 = s.ctrValid ∧ w.getLsbD 6 = s.sticky ∧ w.getLsbD 7 = false
      ∧ (w.extractLsb' 8 5).toNat = s.cursor.val ∧ w.extractLsb' 13 3 = 0
      ∧ w.extractLsb' 16 4 = (if s.keyValid then s.nr else 0)
      ∧ (w.extractLsb' 20 2).toNat = (match s.params.ctrOverflow with
          | .carry128 => 0 | .suffix32 => 1 | .fault => 2)
      ∧ w.extractLsb' 22 10 = 0

/-- R40: INFO reads as DMEM_BYTES, a write to it is ignored, and no step changes the value. -/
def Obligations.InfoReadsDmemBytes : Prop :=
  (∀ (s : State) (rest : List HostEvent), s.params.dmemBytes ≤ 2 ^ 20 → s.host = .read 32 0x018 :: rest →
    ∃ t w, step s = .next t ∧ t.readData = some w ∧ w.toNat = s.params.dmemBytes)
  ∧ (∀ (s : State) (v : Word) (rest : List HostEvent), s.host = .write 32 0x018 v :: rest →
    step s = .next { s with host := rest, readData := none, epoch := s.epoch + 1 })
  ∧ ∀ s t : State, step s = .next t → t.params.dmemBytes = s.params.dmemBytes

/-- While CTR_VALID = 1, CTRi reads as bytes 4i..4i+3 of the counter, big-endian, and CTR3 is the suffix (R41, R200). -/
def Obligations.CounterWordsReadTheCounter : Prop :=
  ∀ (s : State) (i : Fin 4) (rest : List HostEvent), s.ctrValid = true →
    s.host = .read 32 (0x030 + 4 * i.val) :: rest →
    ∃ t w, step s = .next t ∧ t.readData = some w
      ∧ (∀ j : Fin 4, byteOf w (3 - j.val) = s.ctr[4 * i.val + j.val]) ∧ (i = 3 → w = suffix s.ctr)

/-- While KEY_VALID = 1, EK_r_c and DK_r_c of a row up to NR read as the round-key words (R42). -/
def Obligations.RoundKeyWordsReadTheKeys : Prop :=
  ∀ (s : State) (r : Fin 15) (c : Fin 4) (rest : List HostEvent), s.keyValid = true → r.val ≤ s.nr.toNat →
    (s.host = .read 32 (0x100 + 16 * r.val + 4 * c.val) :: rest →
      ∃ t, step s = .next t ∧ t.readData = some s.ek[r][c])
    ∧ (s.host = .read 32 (0x200 + 16 * r.val + 4 * c.val) :: rest →
      ∃ t, step s = .next t ∧ t.readData = some s.dk[r][c])

/-- R71: the window word at 0x1000 + a reads as bytes a..a+3, big-endian, and a write sets those four bytes and nothing
else. -/
def Obligations.DmemWindowIsBigEndian : Prop :=
  ∀ (s : State) (a : Nat) (rest : List HostEvent), a % 4 = 0 → a + 4 ≤ s.params.dmemBytes →
    (s.host = .read 32 (0x1000 + a) :: rest →
      ∃ t, step s = .next t ∧ t.readData = some (pack32 (Memory.read s.dmem a) (Memory.read s.dmem (a + 1))
        (Memory.read s.dmem (a + 2)) (Memory.read s.dmem (a + 3))))
    ∧ ∀ v : Word, s.host = .write 32 (0x1000 + a) v :: rest →
      ∃ t, step s = .next t
        ∧ (∀ k, k < 4 → Memory.read t.dmem (a + k) = byteOf v (3 - k))
        ∧ (∀ b, b < a ∨ a + 4 ≤ b → Memory.read t.dmem b = Memory.read s.dmem b)
        ∧ t = { s with host := rest, readData := none, epoch := s.epoch + 1, dmem := t.dmem }

/-- A word written to an operand register is read back from it, every other operand register and all other state is
unchanged (R32, R33). -/
def Obligations.OperandWritesReadBack : Prop :=
  ∀ (s : State) (off : Nat) (v : Word) (rest : List HostEvent), off % 4 = 0 →
    (0x008 ≤ off ∧ off ≤ 0x014) ∨ (0x020 ≤ off ∧ off ≤ 0x028) ∨ (0x040 ≤ off ∧ off ≤ 0x05C) →
    s.host = .write 32 off v :: .read 32 off :: rest →
    ∃ t, Host.Core.run Sys2Proof.core 2 s = .next t ∧ t.readData = some v
      ∧ (∀ o, o % 4 = 0 → o ≠ off →
          (0x008 ≤ o ∧ o ≤ 0x014) ∨ (0x020 ≤ o ∧ o ≤ 0x028) ∨ (0x040 ≤ o ∧ o ≤ 0x05C) →
          readValue t o = readValue s o)
      ∧ t = { s with
          addr := t.addr, len := t.len, seedLo := t.seedLo, seedHi := t.seedHi, nonce := t.nonce, key := t.key,
          host := rest, readData := some v, epoch := s.epoch + 1 }

/-- R49, and the write half of R48: a write to a read-only register, to a reserved offset or to an unmapped one changes
no state (the event leaves the model's list, and the epoch moves on). -/
def Obligations.IgnoredWritesChangeNothing : Prop :=
  ∀ (s : State) (off : Nat) (v : Word) (rest : List HostEvent), off % 4 = 0 →
    (off = 0x004 ∨ off = 0x018 ∨ off = 0x01C ∨ off = 0x02C ∨ (0x030 ≤ off ∧ off < 0x040)
      ∨ (0x060 ≤ off ∧ off < 0x1000) ∨ 0x1000 + s.params.dmemBytes ≤ off) →
    s.host = .write 32 off v :: rest →
    step s = .next { s with host := rest, readData := none, epoch := s.epoch + 1 }

/-- With no event the core holds its state (R30, R284). -/
def Obligations.IdleCoreHoldsItsState : Prop :=
  ∀ s : State, s.host = [] → step s = .next s

/-! ## Reset and invariants -/

/-- R50, R300: what a reset event, and the state after power-on, leave in every piece of state to which the rule gives a
value; the parameters stay. -/
def Obligations.ResetGivesTheResetValues : Prop :=
  (∀ (s : State) (rest : List HostEvent), s.host = .reset :: rest →
    ∃ t, step s = .next t ∧ t.err = .success ∧ t.sticky = false ∧ t.keyValid = false ∧ t.nr = 0
      ∧ t.ctrValid = false ∧ t.cursor = 16 ∧ t.addr = 0 ∧ t.len = 0 ∧ t.seedLo = 0 ∧ t.seedHi = 0
      ∧ (∀ i : Fin 3, t.nonce[i] = 0) ∧ (∀ i : Fin 8, t.key[i] = 0)
      ∧ t.dmem = s.params.dmemInit ∧ t.params = s.params ∧ t.host = rest)
  ∧ ∀ (p : Params), (State.resetWith p).err = .success ∧ (State.resetWith p).sticky = false
      ∧ (State.resetWith p).keyValid = false ∧ (State.resetWith p).nr = 0 ∧ (State.resetWith p).ctrValid = false
      ∧ (State.resetWith p).cursor = 16 ∧ (State.resetWith p).addr = 0 ∧ (State.resetWith p).len = 0
      ∧ (State.resetWith p).seedLo = 0 ∧ (State.resetWith p).seedHi = 0
      ∧ (∀ i : Fin 3, (State.resetWith p).nonce[i] = 0) ∧ (∀ i : Fin 8, (State.resetWith p).key[i] = 0)
      ∧ (State.resetWith p).dmem = p.dmemInit ∧ (State.resetWith p).params = p

/-- The invariants hold right after reset. -/
def Obligations.InvariantsHoldAtReset : Prop :=
  State.reset.inv = true ∧ keysMatch State.reset = true

/-- Every step keeps the invariant: legal constant parameters, NR a legal round count exactly while a key is there, an
error on show only with STICKY set, and a canonical data memory inside DMEM_BYTES. -/
def Obligations.StepKeepsTheInvariant : Prop :=
  ∀ s t : State, s.inv = true → step s = .next t → t.inv = true

/-- Every step keeps DK the reversed and inverse-mixed EK (R43, R164, R166). -/
def Obligations.StepKeepsTheKeysMatched : Prop :=
  ∀ s t : State, keysMatch s = true → step s = .next t → keysMatch t = true

/-- Round keys while KEY_VALID = 0 or above row NR, the counter while CTR_VALID = 0 and REM while CURSOR = 16 never
show: two states that differ only there step alike, and differ only there afterwards (ID2, R50). -/
def Obligations.UnspecifiedContentNeverShows : Prop :=
  ∀ s u : State, specifiedAgree s u →
    match step s with
    | .next t => ∃ x, step u = .next x ∧ specifiedAgree t x
    | .fault r => step u = .fault r
    | .refused r => step u = .refused r

/-! ## Byte strings through the port -/

/-- R111, the write form: the transactions of wrbytes a, B run to the end, the bytes of B stand in DMEM from a on, every
other byte and all other state is unchanged (but for the model's readData and epoch). -/
def Obligations.WrbytesStoresTheString : Prop :=
  ∀ (s : State) (a : Nat) (bs : List Byte), a % 4 = 0 → bs.length % 4 = 0 → a + bs.length ≤ s.params.dmemBytes →
    ∃ t, Host.Core.run Sys2Proof.core (bs.length / 4) { s with host := wrbytesSequence a bs ++ s.host } = .next t
      ∧ (∀ i, i < bs.length → Memory.read t.dmem (a + i) = bs.getD i 0)
      ∧ (∀ b, b < a ∨ a + bs.length ≤ b → Memory.read t.dmem b = Memory.read s.dmem b)
      ∧ t = { s with dmem := t.dmem, readData := t.readData, epoch := t.epoch }

/-- R111, the read form: the words the transactions of rdbytes a, n return, unpacked big-endian, are the n bytes of DMEM
from a on, and the transactions run to the end and change nothing (but the model's readData). -/
def Obligations.RdbytesReturnsTheBytes : Prop :=
  ∀ (s : State) (a n : Nat), a % 4 = 0 → n % 4 = 0 → a + n ≤ s.params.dmemBytes →
    rdbytes a n s = (List.range n).map (fun i => Memory.read s.dmem (a + i))
    ∧ ∃ r, Host.Core.run Sys2Proof.core (n / 4) { s with host := rdbytesSequence a n ++ s.host }
        = .next { s with readData := r }
end

