-- ==== Sys2Proof/Laws/State.lean ====
section
/-! SUPPORT. What each named update of State leaves in each field: one lemma per field per update. -/

namespace Sys2Proof.Machine

variable (s : State)

/-! ## State.raise -/

@[simp] theorem State.raise_params (e : ErrorCode) : (s.raise e).params = s.params := rfl
@[simp] theorem State.raise_addr (e : ErrorCode) : (s.raise e).addr = s.addr := rfl
@[simp] theorem State.raise_len (e : ErrorCode) : (s.raise e).len = s.len := rfl
@[simp] theorem State.raise_seedLo (e : ErrorCode) : (s.raise e).seedLo = s.seedLo := rfl
@[simp] theorem State.raise_seedHi (e : ErrorCode) : (s.raise e).seedHi = s.seedHi := rfl
@[simp] theorem State.raise_nonce (e : ErrorCode) : (s.raise e).nonce = s.nonce := rfl
@[simp] theorem State.raise_key (e : ErrorCode) : (s.raise e).key = s.key := rfl
@[simp] theorem State.raise_err (e : ErrorCode) : (s.raise e).err = e := rfl
@[simp] theorem State.raise_sticky (e : ErrorCode) : (s.raise e).sticky = true := rfl
@[simp] theorem State.raise_keyValid (e : ErrorCode) : (s.raise e).keyValid = s.keyValid := rfl
@[simp] theorem State.raise_nr (e : ErrorCode) : (s.raise e).nr = s.nr := rfl
@[simp] theorem State.raise_ek (e : ErrorCode) : (s.raise e).ek = s.ek := rfl
@[simp] theorem State.raise_dk (e : ErrorCode) : (s.raise e).dk = s.dk := rfl
@[simp] theorem State.raise_ctrValid (e : ErrorCode) : (s.raise e).ctrValid = s.ctrValid := rfl
@[simp] theorem State.raise_ctr (e : ErrorCode) : (s.raise e).ctr = s.ctr := rfl
@[simp] theorem State.raise_remainder (e : ErrorCode) : (s.raise e).remainder = s.remainder := rfl
@[simp] theorem State.raise_cursor (e : ErrorCode) : (s.raise e).cursor = s.cursor := rfl
@[simp] theorem State.raise_dmem (e : ErrorCode) : (s.raise e).dmem = s.dmem := rfl
@[simp] theorem State.raise_host (e : ErrorCode) : (s.raise e).host = s.host := rfl
@[simp] theorem State.raise_readData (e : ErrorCode) : (s.raise e).readData = s.readData := rfl
@[simp] theorem State.raise_epoch (e : ErrorCode) : (s.raise e).epoch = s.epoch := rfl
@[simp] theorem State.raise_draws (e : ErrorCode) : (s.raise e).draws = s.draws := rfl

/-! ## State.complete -/

@[simp] theorem State.complete_params : (s.complete).params = s.params := rfl
@[simp] theorem State.complete_addr : (s.complete).addr = s.addr := rfl
@[simp] theorem State.complete_len : (s.complete).len = s.len := rfl
@[simp] theorem State.complete_seedLo : (s.complete).seedLo = s.seedLo := rfl
@[simp] theorem State.complete_seedHi : (s.complete).seedHi = s.seedHi := rfl
@[simp] theorem State.complete_nonce : (s.complete).nonce = s.nonce := rfl
@[simp] theorem State.complete_key : (s.complete).key = s.key := rfl
@[simp] theorem State.complete_err : (s.complete).err = .success := rfl
@[simp] theorem State.complete_sticky : (s.complete).sticky = s.sticky := rfl
@[simp] theorem State.complete_keyValid : (s.complete).keyValid = s.keyValid := rfl
@[simp] theorem State.complete_nr : (s.complete).nr = s.nr := rfl
@[simp] theorem State.complete_ek : (s.complete).ek = s.ek := rfl
@[simp] theorem State.complete_dk : (s.complete).dk = s.dk := rfl
@[simp] theorem State.complete_ctrValid : (s.complete).ctrValid = s.ctrValid := rfl
@[simp] theorem State.complete_ctr : (s.complete).ctr = s.ctr := rfl
@[simp] theorem State.complete_remainder : (s.complete).remainder = s.remainder := rfl
@[simp] theorem State.complete_cursor : (s.complete).cursor = s.cursor := rfl
@[simp] theorem State.complete_dmem : (s.complete).dmem = s.dmem := rfl
@[simp] theorem State.complete_host : (s.complete).host = s.host := rfl
@[simp] theorem State.complete_readData : (s.complete).readData = s.readData := rfl
@[simp] theorem State.complete_epoch : (s.complete).epoch = s.epoch := rfl
@[simp] theorem State.complete_draws : (s.complete).draws = s.draws := rfl

/-! ## State.setDmem -/

@[simp] theorem State.setDmem_params (m : Memory) : (s.setDmem m).params = s.params := rfl
@[simp] theorem State.setDmem_addr (m : Memory) : (s.setDmem m).addr = s.addr := rfl
@[simp] theorem State.setDmem_len (m : Memory) : (s.setDmem m).len = s.len := rfl
@[simp] theorem State.setDmem_seedLo (m : Memory) : (s.setDmem m).seedLo = s.seedLo := rfl
@[simp] theorem State.setDmem_seedHi (m : Memory) : (s.setDmem m).seedHi = s.seedHi := rfl
@[simp] theorem State.setDmem_nonce (m : Memory) : (s.setDmem m).nonce = s.nonce := rfl
@[simp] theorem State.setDmem_key (m : Memory) : (s.setDmem m).key = s.key := rfl
@[simp] theorem State.setDmem_err (m : Memory) : (s.setDmem m).err = s.err := rfl
@[simp] theorem State.setDmem_sticky (m : Memory) : (s.setDmem m).sticky = s.sticky := rfl
@[simp] theorem State.setDmem_keyValid (m : Memory) : (s.setDmem m).keyValid = s.keyValid := rfl
@[simp] theorem State.setDmem_nr (m : Memory) : (s.setDmem m).nr = s.nr := rfl
@[simp] theorem State.setDmem_ek (m : Memory) : (s.setDmem m).ek = s.ek := rfl
@[simp] theorem State.setDmem_dk (m : Memory) : (s.setDmem m).dk = s.dk := rfl
@[simp] theorem State.setDmem_ctrValid (m : Memory) : (s.setDmem m).ctrValid = s.ctrValid := rfl
@[simp] theorem State.setDmem_ctr (m : Memory) : (s.setDmem m).ctr = s.ctr := rfl
@[simp] theorem State.setDmem_remainder (m : Memory) : (s.setDmem m).remainder = s.remainder := rfl
@[simp] theorem State.setDmem_cursor (m : Memory) : (s.setDmem m).cursor = s.cursor := rfl
@[simp] theorem State.setDmem_dmem (m : Memory) : (s.setDmem m).dmem = m := rfl
@[simp] theorem State.setDmem_host (m : Memory) : (s.setDmem m).host = s.host := rfl
@[simp] theorem State.setDmem_readData (m : Memory) : (s.setDmem m).readData = s.readData := rfl
@[simp] theorem State.setDmem_epoch (m : Memory) : (s.setDmem m).epoch = s.epoch := rfl
@[simp] theorem State.setDmem_draws (m : Memory) : (s.setDmem m).draws = s.draws := rfl

/-! ## State.loadCtr -/

@[simp] theorem State.loadCtr_params (b : Block) : (s.loadCtr b).params = s.params := rfl
@[simp] theorem State.loadCtr_addr (b : Block) : (s.loadCtr b).addr = s.addr := rfl
@[simp] theorem State.loadCtr_len (b : Block) : (s.loadCtr b).len = s.len := rfl
@[simp] theorem State.loadCtr_seedLo (b : Block) : (s.loadCtr b).seedLo = s.seedLo := rfl
@[simp] theorem State.loadCtr_seedHi (b : Block) : (s.loadCtr b).seedHi = s.seedHi := rfl
@[simp] theorem State.loadCtr_nonce (b : Block) : (s.loadCtr b).nonce = s.nonce := rfl
@[simp] theorem State.loadCtr_key (b : Block) : (s.loadCtr b).key = s.key := rfl
@[simp] theorem State.loadCtr_err (b : Block) : (s.loadCtr b).err = s.err := rfl
@[simp] theorem State.loadCtr_sticky (b : Block) : (s.loadCtr b).sticky = s.sticky := rfl
@[simp] theorem State.loadCtr_keyValid (b : Block) : (s.loadCtr b).keyValid = s.keyValid := rfl
@[simp] theorem State.loadCtr_nr (b : Block) : (s.loadCtr b).nr = s.nr := rfl
@[simp] theorem State.loadCtr_ek (b : Block) : (s.loadCtr b).ek = s.ek := rfl
@[simp] theorem State.loadCtr_dk (b : Block) : (s.loadCtr b).dk = s.dk := rfl
@[simp] theorem State.loadCtr_ctrValid (b : Block) : (s.loadCtr b).ctrValid = true := rfl
@[simp] theorem State.loadCtr_ctr (b : Block) : (s.loadCtr b).ctr = b := rfl
@[simp] theorem State.loadCtr_remainder (b : Block) : (s.loadCtr b).remainder = s.remainder := rfl
@[simp] theorem State.loadCtr_cursor (b : Block) : (s.loadCtr b).cursor = s.cursor := rfl
@[simp] theorem State.loadCtr_dmem (b : Block) : (s.loadCtr b).dmem = s.dmem := rfl
@[simp] theorem State.loadCtr_host (b : Block) : (s.loadCtr b).host = s.host := rfl
@[simp] theorem State.loadCtr_readData (b : Block) : (s.loadCtr b).readData = s.readData := rfl
@[simp] theorem State.loadCtr_epoch (b : Block) : (s.loadCtr b).epoch = s.epoch := rfl
@[simp] theorem State.loadCtr_draws (b : Block) : (s.loadCtr b).draws = s.draws := rfl

/-! ## State.setCtr -/

@[simp] theorem State.setCtr_params (b : Block) : (s.setCtr b).params = s.params := rfl
@[simp] theorem State.setCtr_addr (b : Block) : (s.setCtr b).addr = s.addr := rfl
@[simp] theorem State.setCtr_len (b : Block) : (s.setCtr b).len = s.len := rfl
@[simp] theorem State.setCtr_seedLo (b : Block) : (s.setCtr b).seedLo = s.seedLo := rfl
@[simp] theorem State.setCtr_seedHi (b : Block) : (s.setCtr b).seedHi = s.seedHi := rfl
@[simp] theorem State.setCtr_nonce (b : Block) : (s.setCtr b).nonce = s.nonce := rfl
@[simp] theorem State.setCtr_key (b : Block) : (s.setCtr b).key = s.key := rfl
@[simp] theorem State.setCtr_err (b : Block) : (s.setCtr b).err = s.err := rfl
@[simp] theorem State.setCtr_sticky (b : Block) : (s.setCtr b).sticky = s.sticky := rfl
@[simp] theorem State.setCtr_keyValid (b : Block) : (s.setCtr b).keyValid = s.keyValid := rfl
@[simp] theorem State.setCtr_nr (b : Block) : (s.setCtr b).nr = s.nr := rfl
@[simp] theorem State.setCtr_ek (b : Block) : (s.setCtr b).ek = s.ek := rfl
@[simp] theorem State.setCtr_dk (b : Block) : (s.setCtr b).dk = s.dk := rfl
@[simp] theorem State.setCtr_ctrValid (b : Block) : (s.setCtr b).ctrValid = s.ctrValid := rfl
@[simp] theorem State.setCtr_ctr (b : Block) : (s.setCtr b).ctr = b := rfl
@[simp] theorem State.setCtr_remainder (b : Block) : (s.setCtr b).remainder = s.remainder := rfl
@[simp] theorem State.setCtr_cursor (b : Block) : (s.setCtr b).cursor = s.cursor := rfl
@[simp] theorem State.setCtr_dmem (b : Block) : (s.setCtr b).dmem = s.dmem := rfl
@[simp] theorem State.setCtr_host (b : Block) : (s.setCtr b).host = s.host := rfl
@[simp] theorem State.setCtr_readData (b : Block) : (s.setCtr b).readData = s.readData := rfl
@[simp] theorem State.setCtr_epoch (b : Block) : (s.setCtr b).epoch = s.epoch := rfl
@[simp] theorem State.setCtr_draws (b : Block) : (s.setCtr b).draws = s.draws := rfl

/-! ## State.setKeys -/

@[simp] theorem State.setKeys_params (n : BitVec 4) (e d : RoundKeys) : (s.setKeys n e d).params = s.params := rfl
@[simp] theorem State.setKeys_addr (n : BitVec 4) (e d : RoundKeys) : (s.setKeys n e d).addr = s.addr := rfl
@[simp] theorem State.setKeys_len (n : BitVec 4) (e d : RoundKeys) : (s.setKeys n e d).len = s.len := rfl
@[simp] theorem State.setKeys_seedLo (n : BitVec 4) (e d : RoundKeys) : (s.setKeys n e d).seedLo = s.seedLo := rfl
@[simp] theorem State.setKeys_seedHi (n : BitVec 4) (e d : RoundKeys) : (s.setKeys n e d).seedHi = s.seedHi := rfl
@[simp] theorem State.setKeys_nonce (n : BitVec 4) (e d : RoundKeys) : (s.setKeys n e d).nonce = s.nonce := rfl
@[simp] theorem State.setKeys_key (n : BitVec 4) (e d : RoundKeys) : (s.setKeys n e d).key = s.key := rfl
@[simp] theorem State.setKeys_err (n : BitVec 4) (e d : RoundKeys) : (s.setKeys n e d).err = s.err := rfl
@[simp] theorem State.setKeys_sticky (n : BitVec 4) (e d : RoundKeys) : (s.setKeys n e d).sticky = s.sticky := rfl
@[simp] theorem State.setKeys_keyValid (n : BitVec 4) (e d : RoundKeys) : (s.setKeys n e d).keyValid = true := rfl
@[simp] theorem State.setKeys_nr (n : BitVec 4) (e d : RoundKeys) : (s.setKeys n e d).nr = n := rfl
@[simp] theorem State.setKeys_ek (n : BitVec 4) (e d : RoundKeys) : (s.setKeys n e d).ek = e := rfl
@[simp] theorem State.setKeys_dk (n : BitVec 4) (e d : RoundKeys) : (s.setKeys n e d).dk = d := rfl
@[simp] theorem State.setKeys_ctrValid (n : BitVec 4) (e d : RoundKeys) : (s.setKeys n e d).ctrValid = s.ctrValid := rfl
@[simp] theorem State.setKeys_ctr (n : BitVec 4) (e d : RoundKeys) : (s.setKeys n e d).ctr = s.ctr := rfl
@[simp] theorem State.setKeys_remainder (n : BitVec 4) (e d : RoundKeys) : (s.setKeys n e d).remainder = s.remainder := rfl
@[simp] theorem State.setKeys_cursor (n : BitVec 4) (e d : RoundKeys) : (s.setKeys n e d).cursor = s.cursor := rfl
@[simp] theorem State.setKeys_dmem (n : BitVec 4) (e d : RoundKeys) : (s.setKeys n e d).dmem = s.dmem := rfl
@[simp] theorem State.setKeys_host (n : BitVec 4) (e d : RoundKeys) : (s.setKeys n e d).host = s.host := rfl
@[simp] theorem State.setKeys_readData (n : BitVec 4) (e d : RoundKeys) : (s.setKeys n e d).readData = s.readData := rfl
@[simp] theorem State.setKeys_epoch (n : BitVec 4) (e d : RoundKeys) : (s.setKeys n e d).epoch = s.epoch := rfl
@[simp] theorem State.setKeys_draws (n : BitVec 4) (e d : RoundKeys) : (s.setKeys n e d).draws = s.draws := rfl

/-! ## State.setCursor -/

@[simp] theorem State.setCursor_params (c : Fin 17) : (s.setCursor c).params = s.params := rfl
@[simp] theorem State.setCursor_addr (c : Fin 17) : (s.setCursor c).addr = s.addr := rfl
@[simp] theorem State.setCursor_len (c : Fin 17) : (s.setCursor c).len = s.len := rfl
@[simp] theorem State.setCursor_seedLo (c : Fin 17) : (s.setCursor c).seedLo = s.seedLo := rfl
@[simp] theorem State.setCursor_seedHi (c : Fin 17) : (s.setCursor c).seedHi = s.seedHi := rfl
@[simp] theorem State.setCursor_nonce (c : Fin 17) : (s.setCursor c).nonce = s.nonce := rfl
@[simp] theorem State.setCursor_key (c : Fin 17) : (s.setCursor c).key = s.key := rfl
@[simp] theorem State.setCursor_err (c : Fin 17) : (s.setCursor c).err = s.err := rfl
@[simp] theorem State.setCursor_sticky (c : Fin 17) : (s.setCursor c).sticky = s.sticky := rfl
@[simp] theorem State.setCursor_keyValid (c : Fin 17) : (s.setCursor c).keyValid = s.keyValid := rfl
@[simp] theorem State.setCursor_nr (c : Fin 17) : (s.setCursor c).nr = s.nr := rfl
@[simp] theorem State.setCursor_ek (c : Fin 17) : (s.setCursor c).ek = s.ek := rfl
@[simp] theorem State.setCursor_dk (c : Fin 17) : (s.setCursor c).dk = s.dk := rfl
@[simp] theorem State.setCursor_ctrValid (c : Fin 17) : (s.setCursor c).ctrValid = s.ctrValid := rfl
@[simp] theorem State.setCursor_ctr (c : Fin 17) : (s.setCursor c).ctr = s.ctr := rfl
@[simp] theorem State.setCursor_remainder (c : Fin 17) : (s.setCursor c).remainder = s.remainder := rfl
@[simp] theorem State.setCursor_cursor (c : Fin 17) : (s.setCursor c).cursor = c := rfl
@[simp] theorem State.setCursor_dmem (c : Fin 17) : (s.setCursor c).dmem = s.dmem := rfl
@[simp] theorem State.setCursor_host (c : Fin 17) : (s.setCursor c).host = s.host := rfl
@[simp] theorem State.setCursor_readData (c : Fin 17) : (s.setCursor c).readData = s.readData := rfl
@[simp] theorem State.setCursor_epoch (c : Fin 17) : (s.setCursor c).epoch = s.epoch := rfl
@[simp] theorem State.setCursor_draws (c : Fin 17) : (s.setCursor c).draws = s.draws := rfl

/-! ## State.takeEvent -/

@[simp] theorem State.takeEvent_params (l : List HostEvent) : (s.takeEvent l).params = s.params := rfl
@[simp] theorem State.takeEvent_addr (l : List HostEvent) : (s.takeEvent l).addr = s.addr := rfl
@[simp] theorem State.takeEvent_len (l : List HostEvent) : (s.takeEvent l).len = s.len := rfl
@[simp] theorem State.takeEvent_seedLo (l : List HostEvent) : (s.takeEvent l).seedLo = s.seedLo := rfl
@[simp] theorem State.takeEvent_seedHi (l : List HostEvent) : (s.takeEvent l).seedHi = s.seedHi := rfl
@[simp] theorem State.takeEvent_nonce (l : List HostEvent) : (s.takeEvent l).nonce = s.nonce := rfl
@[simp] theorem State.takeEvent_key (l : List HostEvent) : (s.takeEvent l).key = s.key := rfl
@[simp] theorem State.takeEvent_err (l : List HostEvent) : (s.takeEvent l).err = s.err := rfl
@[simp] theorem State.takeEvent_sticky (l : List HostEvent) : (s.takeEvent l).sticky = s.sticky := rfl
@[simp] theorem State.takeEvent_keyValid (l : List HostEvent) : (s.takeEvent l).keyValid = s.keyValid := rfl
@[simp] theorem State.takeEvent_nr (l : List HostEvent) : (s.takeEvent l).nr = s.nr := rfl
@[simp] theorem State.takeEvent_ek (l : List HostEvent) : (s.takeEvent l).ek = s.ek := rfl
@[simp] theorem State.takeEvent_dk (l : List HostEvent) : (s.takeEvent l).dk = s.dk := rfl
@[simp] theorem State.takeEvent_ctrValid (l : List HostEvent) : (s.takeEvent l).ctrValid = s.ctrValid := rfl
@[simp] theorem State.takeEvent_ctr (l : List HostEvent) : (s.takeEvent l).ctr = s.ctr := rfl
@[simp] theorem State.takeEvent_remainder (l : List HostEvent) : (s.takeEvent l).remainder = s.remainder := rfl
@[simp] theorem State.takeEvent_cursor (l : List HostEvent) : (s.takeEvent l).cursor = s.cursor := rfl
@[simp] theorem State.takeEvent_dmem (l : List HostEvent) : (s.takeEvent l).dmem = s.dmem := rfl
@[simp] theorem State.takeEvent_host (l : List HostEvent) : (s.takeEvent l).host = l := rfl
@[simp] theorem State.takeEvent_readData (l : List HostEvent) : (s.takeEvent l).readData = none := rfl
@[simp] theorem State.takeEvent_epoch (l : List HostEvent) : (s.takeEvent l).epoch = s.epoch := rfl
@[simp] theorem State.takeEvent_draws (l : List HostEvent) : (s.takeEvent l).draws = s.draws := rfl

/-! ## State.nextEpoch -/

@[simp] theorem State.nextEpoch_params : (s.nextEpoch).params = s.params := rfl
@[simp] theorem State.nextEpoch_addr : (s.nextEpoch).addr = s.addr := rfl
@[simp] theorem State.nextEpoch_len : (s.nextEpoch).len = s.len := rfl
@[simp] theorem State.nextEpoch_seedLo : (s.nextEpoch).seedLo = s.seedLo := rfl
@[simp] theorem State.nextEpoch_seedHi : (s.nextEpoch).seedHi = s.seedHi := rfl
@[simp] theorem State.nextEpoch_nonce : (s.nextEpoch).nonce = s.nonce := rfl
@[simp] theorem State.nextEpoch_key : (s.nextEpoch).key = s.key := rfl
@[simp] theorem State.nextEpoch_err : (s.nextEpoch).err = s.err := rfl
@[simp] theorem State.nextEpoch_sticky : (s.nextEpoch).sticky = s.sticky := rfl
@[simp] theorem State.nextEpoch_keyValid : (s.nextEpoch).keyValid = s.keyValid := rfl
@[simp] theorem State.nextEpoch_nr : (s.nextEpoch).nr = s.nr := rfl
@[simp] theorem State.nextEpoch_ek : (s.nextEpoch).ek = s.ek := rfl
@[simp] theorem State.nextEpoch_dk : (s.nextEpoch).dk = s.dk := rfl
@[simp] theorem State.nextEpoch_ctrValid : (s.nextEpoch).ctrValid = s.ctrValid := rfl
@[simp] theorem State.nextEpoch_ctr : (s.nextEpoch).ctr = s.ctr := rfl
@[simp] theorem State.nextEpoch_remainder : (s.nextEpoch).remainder = s.remainder := rfl
@[simp] theorem State.nextEpoch_cursor : (s.nextEpoch).cursor = s.cursor := rfl
@[simp] theorem State.nextEpoch_dmem : (s.nextEpoch).dmem = s.dmem := rfl
@[simp] theorem State.nextEpoch_host : (s.nextEpoch).host = s.host := rfl
@[simp] theorem State.nextEpoch_readData : (s.nextEpoch).readData = s.readData := rfl
@[simp] theorem State.nextEpoch_epoch : (s.nextEpoch).epoch = s.epoch + 1 := rfl
@[simp] theorem State.nextEpoch_draws : (s.nextEpoch).draws = s.draws := rfl

end Sys2Proof.Machine
end

