-- ==== Sys2Proof/Laws/Memory.lean ====
section
/-! SUPPORT. Data memory: read after write, the bytes a multi-byte write leaves, and that every operation keeps the
canonical form and the address bound. -/

namespace Sys2Proof.Machine

theorem Memory.read_filter_same (m : Memory) (a : Nat) :
    Memory.read (m.filter fun c => c.1 != a) a = Memory.unlisted := by
  induction m with
  | nil => rfl
  | cons c m ih =>
    by_cases h : c.1 = a
    · simpa [h] using ih
    · simp [h, Memory.read, Ne.symm h, ih]

theorem Memory.read_filter_other (m : Memory) {a b : Nat} (h : b ≠ a) :
    Memory.read (m.filter fun c => c.1 != a) b = Memory.read m b := by
  induction m with
  | nil => rfl
  | cons c m ih =>
    obtain ⟨d, v⟩ := c
    by_cases hd : d = a
    · subst hd
      simpa [Memory.read, h] using ih
    · simp [hd, Memory.read, ih]

theorem Memory.read_insert_same (m : Memory) (a : Nat) (v : Byte)
    (hm : ∀ c ∈ m, c.1 ≠ a) :
    Memory.read (Memory.insert m a v) a = v := by
  induction m with
  | nil => simp [Memory.insert, Memory.read]
  | cons c m ih =>
    obtain ⟨d, w⟩ := c
    have hd : a ≠ d := fun e => hm (d, w) (by simp) e.symm
    by_cases hlt : a < d
    · simp [Memory.insert, hlt, Memory.read]
    · simp only [Memory.insert, hlt, if_false, Memory.read, hd]
      exact ih fun c hc => hm c (by simp [hc])

theorem Memory.read_insert_other (m : Memory) {a b : Nat} (v : Byte) (h : b ≠ a) :
    Memory.read (Memory.insert m a v) b = Memory.read m b := by
  induction m with
  | nil => simp [Memory.insert, Memory.read, h]
  | cons c m ih =>
    obtain ⟨d, w⟩ := c
    by_cases hlt : a < d
    · simp [Memory.insert, hlt, Memory.read, h]
    · simp [Memory.insert, hlt, Memory.read, ih]

/-- A read after a write to the same address gives the byte written. -/
@[simp] theorem Memory.read_write_same (m : Memory) (a : Nat) (v : Byte) :
    Memory.read (Memory.write m a v) a = v := by
  unfold Memory.write
  by_cases hv : v = Memory.unlisted
  · simp only [hv, if_true]
    exact Memory.read_filter_same m a
  · simp only [hv, if_false]
    refine Memory.read_insert_same _ a v fun c hc => ?_
    simpa using (List.mem_filter.mp hc).2

/-- A write leaves every other address alone. -/
theorem Memory.read_write_other (m : Memory) {a b : Nat} (v : Byte) (h : b ≠ a) :
    Memory.read (Memory.write m a v) b = Memory.read m b := by
  unfold Memory.write
  by_cases hv : v = Memory.unlisted
  · simp only [hv, if_true]
    exact Memory.read_filter_other m h
  · simp only [hv, if_false]
    rw [Memory.read_insert_other _ v h, Memory.read_filter_other m h]

/-- What every address reads after a multi-byte write. -/
theorem Memory.read_writeBytes (m : Memory) (a b : Nat) (bs : List Byte) :
    Memory.read (Memory.writeBytes m a bs) b
      = if a ≤ b ∧ b < a + bs.length then bs.getD (b - a) 0 else Memory.read m b := by
  induction bs generalizing m a with
  | nil =>
    have h : ¬(a ≤ b ∧ b < a) := by omega
    simp [Memory.writeBytes, h]
  | cons x xs ih =>
    rw [Memory.writeBytes, ih]
    by_cases hba : b = a
    · subst hba
      simp
    · by_cases hin : a + 1 ≤ b ∧ b < a + 1 + xs.length
      · have h2 : a ≤ b ∧ b < a + (x :: xs).length := by simp; omega
        rw [if_pos hin, if_pos h2, show b - a = (b - (a + 1)) + 1 by omega]
        simp
      · have h2 : ¬(a ≤ b ∧ b < a + (x :: xs).length) := by simp; omega
        rw [if_neg hin, if_neg h2, Memory.read_write_other _ _ hba]

/-- The bytes of a block written at a. -/
theorem Memory.read_writeBlock_inside (m : Memory) (a : Nat) (b : Block) (i : Nat) (hi : i < 16) :
    Memory.read (Memory.writeBlock m a b) (a + i) = b[i] := by
  simp [Memory.writeBlock, Memory.read_writeBytes, hi]

/-- Every byte outside a block written at a. -/
theorem Memory.read_writeBlock_outside (m : Memory) (a : Nat) (b : Block) (c : Nat) (hc : c < a ∨ a + 16 ≤ c) :
    Memory.read (Memory.writeBlock m a b) c = Memory.read m c := by
  have : ¬(a ≤ c ∧ c < a + 16) := by omega
  simp [Memory.writeBlock, Memory.read_writeBytes, this]

/-- Byte i of a block read at a. -/
@[simp] theorem Memory.readBlock_getElem (m : Memory) (a i : Nat) (hi : i < 16) :
    (Memory.readBlock m a)[i] = Memory.read m (a + i) := by
  simp [Memory.readBlock]

/-- A block written and read back at one address. -/
@[simp] theorem Memory.readBlock_writeBlock (m : Memory) (a : Nat) (b : Block) :
    Memory.readBlock (Memory.writeBlock m a b) a = b := by
  ext i hi
  rw [Memory.readBlock_getElem _ _ _ hi, Memory.read_writeBlock_inside _ _ _ _ hi]

/-! ## The canonical form -/

theorem Memory.wf_iff (m : Memory) :
    Memory.wf m = true ↔ (∀ c ∈ m, c.2 ≠ Memory.unlisted) ∧ m.Pairwise fun c d => c.1 < d.1 := by
  simp [Memory.wf]

theorem Memory.wf_nil : Memory.wf [] = true := by decide

theorem Memory.mem_insert {m : Memory} {a : Nat} {v : Byte} {c : Host.Cell} :
    c ∈ Memory.insert m a v ↔ c = (a, v) ∨ c ∈ m := by
  induction m with
  | nil => simp [Memory.insert]
  | cons d m ih =>
    by_cases h : a < d.1
    · simp [Memory.insert, h]
    · simp only [Memory.insert, h, if_false, List.mem_cons, ih]
      tauto

theorem Memory.pairwise_insert {m : Memory} {a : Nat} {v : Byte}
    (hp : m.Pairwise fun c d => c.1 < d.1) (ha : ∀ c ∈ m, c.1 ≠ a) :
    (Memory.insert m a v).Pairwise fun c d => c.1 < d.1 := by
  induction m with
  | nil => simp [Memory.insert]
  | cons d m ih =>
    rw [List.pairwise_cons] at hp
    by_cases h : a < d.1
    · simp only [Memory.insert, h, if_true, List.pairwise_cons]
      refine ⟨fun c hc => ?_, hp⟩
      rcases List.mem_cons.mp hc with rfl | hc
      · exact h
      · exact h.trans (hp.1 c hc)
    · simp only [Memory.insert, h, if_false, List.pairwise_cons]
      refine ⟨fun c hc => ?_, ih hp.2 fun c hc => ha c (by simp [hc])⟩
      rcases Memory.mem_insert.mp hc with rfl | hc
      · have := ha d (by simp)
        omega
      · exact hp.1 c hc

/-- A write keeps the canonical form. -/
theorem Memory.wf_write {m : Memory} (h : Memory.wf m = true) (a : Nat) (v : Byte) :
    Memory.wf (Memory.write m a v) = true := by
  rw [Memory.wf_iff] at h ⊢
  have hf : ∀ c ∈ m.filter (fun c => c.1 != a), c ∈ m ∧ c.1 ≠ a := fun c hc => by
    simpa using List.mem_filter.mp hc
  have hp : (m.filter fun c => c.1 != a).Pairwise fun c d => c.1 < d.1 := h.2.filter _
  unfold Memory.write
  by_cases hv : v = Memory.unlisted
  · simp only [hv, if_true]
    exact ⟨fun c hc => h.1 c (hf c hc).1, hp⟩
  · simp only [hv, if_false]
    refine ⟨fun c hc => ?_, Memory.pairwise_insert hp fun c hc => (hf c hc).2⟩
    rcases Memory.mem_insert.mp hc with rfl | hc
    · exact hv
    · exact h.1 c (hf c hc).1

/-- A multi-byte write keeps the canonical form. -/
theorem Memory.wf_writeBytes {m : Memory} (h : Memory.wf m = true) (a : Nat) (bs : List Byte) :
    Memory.wf (Memory.writeBytes m a bs) = true := by
  induction bs generalizing m a with
  | nil => exact h
  | cons b bs ih => exact ih (Memory.wf_write h a b) (a + 1)

theorem Memory.wf_writeBlock {m : Memory} (h : Memory.wf m = true) (a : Nat) (b : Block) :
    Memory.wf (Memory.writeBlock m a b) = true := Memory.wf_writeBytes h a _

theorem Memory.wf_writeWord {m : Memory} (h : Memory.wf m = true) (a : Nat) (v : Word) :
    Memory.wf (Memory.writeWord m a v) = true := Memory.wf_writeBytes h a _

/-- The memory of the reset state has the canonical form. -/
theorem Memory.wf_reset : Memory.wf State.reset.dmem = true := by decide

/-! ## The address bound -/

theorem Memory.below_iff (m : Memory) (n : Nat) : Memory.below m n = true ↔ ∀ c ∈ m, c.1 < n := by
  simp [Memory.below]

/-- A write inside the bound keeps it. -/
theorem Memory.below_write {m : Memory} {n a : Nat} (h : Memory.below m n = true) (ha : a < n) (v : Byte) :
    Memory.below (Memory.write m a v) n = true := by
  rw [Memory.below_iff] at h ⊢
  have hf : ∀ c ∈ m.filter (fun c => c.1 != a), c.1 < n := fun c hc => h c (List.mem_filter.mp hc).1
  unfold Memory.write
  by_cases hv : v = Memory.unlisted
  · simpa only [hv, if_true] using hf
  · simp only [hv, if_false]
    intro c hc
    rcases Memory.mem_insert.mp hc with rfl | hc
    · exact ha
    · exact hf c hc

/-- A multi-byte write inside the bound keeps it. -/
theorem Memory.below_writeBytes {m : Memory} {n a : Nat} {bs : List Byte} (h : Memory.below m n = true)
    (ha : a + bs.length ≤ n) : Memory.below (Memory.writeBytes m a bs) n = true := by
  induction bs generalizing m a with
  | nil => exact h
  | cons b bs ih =>
    simp only [List.length_cons] at ha
    exact ih (Memory.below_write h (by omega) b) (by omega)

theorem Memory.below_writeBlock {m : Memory} {n a : Nat} {b : Block} (h : Memory.below m n = true)
    (ha : a + 16 ≤ n) : Memory.below (Memory.writeBlock m a b) n = true :=
  Memory.below_writeBytes h (by simpa using ha)

theorem Memory.below_writeWord {m : Memory} {n a : Nat} {v : Word} (h : Memory.below m n = true)
    (ha : a + 4 ≤ n) : Memory.below (Memory.writeWord m a v) n = true :=
  Memory.below_writeBytes h (by simpa [wordBytes] using ha)

/-! ## Equal memories are equal data -/

theorem Memory.read_eq_unlisted {m : Memory} {a : Nat} (h : ∀ c ∈ m, c.1 ≠ a) :
    Memory.read m a = Memory.unlisted := by
  induction m with
  | nil => rfl
  | cons c m ih =>
    have hc : a ≠ c.1 := fun e => h c (by simp) e.symm
    simp only [Memory.read, hc, if_false]
    exact ih fun d hd => h d (by simp [hd])

/-- Two canonical memories that read alike are the same list. -/
theorem Memory.ext_of_read {m n : Memory} (hm : Memory.wf m = true) (hn : Memory.wf n = true)
    (h : ∀ a, Memory.read m a = Memory.read n a) : m = n := by
  rw [Memory.wf_iff] at hm hn
  induction m generalizing n with
  | nil =>
    cases n with
    | nil => rfl
    | cons c n =>
      have := h c.1
      simp only [Memory.read, if_true] at this
      exact absurd this.symm (hn.1 c (by simp))
  | cons c m ih =>
    cases n with
    | nil =>
      have := h c.1
      simp only [Memory.read, if_true] at this
      exact absurd this (hm.1 c (by simp))
    | cons d n =>
      obtain ⟨hm1, hm2⟩ := hm
      obtain ⟨hn1, hn2⟩ := hn
      rw [List.pairwise_cons] at hm2 hn2
      have key : ∀ (p q : Host.Cell) (x y : Memory), p.1 < q.1 → p.2 ≠ Memory.unlisted →
          (∀ r ∈ y, q.1 < r.1) → Memory.read (p :: x) p.1 = Memory.read (q :: y) p.1 → False := by
        intro p q x y hpq hp hy e
        have hq : Memory.read (q :: y) p.1 = Memory.unlisted :=
          Memory.read_eq_unlisted fun r hr => by
            rcases List.mem_cons.mp hr with rfl | hr
            · omega
            · have := hy r hr; omega
        rw [hq] at e
        simp only [Memory.read, if_true] at e
        exact hp e
      have hcd : c.1 = d.1 := by
        rcases Nat.lt_trichotomy c.1 d.1 with hlt | heq | hgt
        · exact (key c d m n hlt (hm1 c (by simp)) hn2.1 (h c.1)).elim
        · exact heq
        · exact (key d c n m hgt (hn1 d (by simp)) hm2.1 (h d.1).symm).elim
      have hv : c.2 = d.2 := by
        have := h c.1
        simpa [Memory.read, hcd] using this
      have hcell : c = d := Prod.ext hcd hv
      subst hcell
      congr 1
      refine ih ⟨fun x hx => hm1 x (by simp [hx]), hm2.2⟩ ⟨fun x hx => hn1 x (by simp [hx]), hn2.2⟩ fun a => ?_
      by_cases ha : a = c.1
      · subst ha
        rw [Memory.read_eq_unlisted fun x hx => by have := hm2.1 x hx; omega,
          Memory.read_eq_unlisted fun x hx => by have := hn2.1 x hx; omega]
      · have := h a
        simpa [Memory.read, ha] using this

end Sys2Proof.Machine
end

