-- ==== Sys2Proof/Laws/Packing.lean ====
section
/-! SUPPORT. Bytes and words (R13): packing and taking apart are inverse, and both keep XOR. -/

namespace Sys2Proof.Machine

theorem byteOf_eq_extract (w : Word) (k : Nat) : byteOf w k = w.extractLsb' (8 * k) 8 := by
  apply BitVec.eq_of_getLsbD_eq
  intro i hi
  simp [byteOf, hi]

/-- The bits of a packed word. -/
theorem getLsbD_pack32 (a b c d : Byte) (i : Nat) :
    (pack32 a b c d).getLsbD i
      = if i < 8 then d.getLsbD i else if i < 16 then c.getLsbD (i - 8)
        else if i < 24 then b.getLsbD (i - 16) else a.getLsbD (i - 24) := by
  have h : (pack32 a b c d).getLsbD i = (a ++ b ++ c ++ d : BitVec (8 + 8 + 8 + 8)).getLsbD i := rfl
  rw [h, BitVec.getLsbD_append, BitVec.getLsbD_append, BitVec.getLsbD_append, Nat.sub_sub, Nat.sub_sub]
  by_cases h8 : i < 8
  · simp [h8]
  · by_cases h16 : i < 16
    · simp [h8, h16, show i - 8 < 8 by omega]
    · by_cases h24 : i < 24
      · simp [h8, h16, h24, show ¬(i - 8 < 8) by omega, show i - 16 < 8 by omega]
      · simp [h8, h16, h24, show ¬(i - 8 < 8) by omega, show ¬(i - 16 < 8) by omega]

@[simp] theorem byteOf_pack32_three (a b c d : Byte) : byteOf (pack32 a b c d) 3 = a := by
  apply BitVec.eq_of_getLsbD_eq
  intro i hi
  simp [byteOf, getLsbD_pack32, hi, show ¬(24 + i < 8) by omega, show ¬(24 + i < 16) by omega, show ¬(24 + i < 24) by omega, show 24 + i - 24 = i by omega]

@[simp] theorem byteOf_pack32_two (a b c d : Byte) : byteOf (pack32 a b c d) 2 = b := by
  apply BitVec.eq_of_getLsbD_eq
  intro i hi
  simp [byteOf, getLsbD_pack32, hi, show ¬(16 + i < 8) by omega, show ¬(16 + i < 16) by omega, show 16 + i < 24 by omega, show 16 + i - 16 = i by omega]

@[simp] theorem byteOf_pack32_one (a b c d : Byte) : byteOf (pack32 a b c d) 1 = c := by
  apply BitVec.eq_of_getLsbD_eq
  intro i hi
  simp [byteOf, getLsbD_pack32, hi, show ¬(8 + i < 8) by omega, show 8 + i < 16 by omega, show 8 + i - 8 = i by omega]

@[simp] theorem byteOf_pack32_zero (a b c d : Byte) : byteOf (pack32 a b c d) 0 = d := by
  apply BitVec.eq_of_getLsbD_eq
  intro i hi
  simp [byteOf, getLsbD_pack32, hi]

@[simp] theorem byteOf_xor (v w : Word) (k : Nat) : byteOf (v ^^^ w) k = byteOf v k ^^^ byteOf w k := by
  apply BitVec.eq_of_getLsbD_eq
  intro i hi
  simp [byteOf, hi]

/-- Two words with the same four bytes are the same word. -/
theorem word_ext {v w : Word} (h3 : byteOf v 3 = byteOf w 3) (h2 : byteOf v 2 = byteOf w 2)
    (h1 : byteOf v 1 = byteOf w 1) (h0 : byteOf v 0 = byteOf w 0) : v = w := by
  apply BitVec.eq_of_getLsbD_eq
  intro i hi
  have get : ∀ (x y : Word) (k j : Nat), byteOf x k = byteOf y k → j < 8 →
      x.getLsbD (8 * k + j) = y.getLsbD (8 * k + j) := by
    intro x y k j e hj
    have := congrArg (fun b : Byte => b.getLsbD j) e
    simpa [byteOf, hj] using this
  rcases (by omega : i < 8 ∨ (8 ≤ i ∧ i < 16) ∨ (16 ≤ i ∧ i < 24) ∨ (24 ≤ i ∧ i < 32)) with h | ⟨h, h'⟩ | ⟨h, h'⟩ | ⟨h, h'⟩
  · simpa using get v w 0 i h0 h
  · simpa [show 8 + (i - 8) = i by omega] using get v w 1 (i - 8) h1 (by omega)
  · simpa [show 16 + (i - 16) = i by omega] using get v w 2 (i - 16) h2 (by omega)
  · simpa [show 24 + (i - 24) = i by omega] using get v w 3 (i - 24) h3 (by omega)

/-- A word packed from its own bytes. -/
@[simp] theorem pack32_byteOf (w : Word) : pack32 (byteOf w 3) (byteOf w 2) (byteOf w 1) (byteOf w 0) = w :=
  word_ext (by simp) (by simp) (by simp) (by simp)

/-- The byte of a block's word i that stands at block index 4i + j. -/
theorem byteOf_blockWord (b : Block) (i j : Fin 4) : byteOf (blockWord b i) (3 - j.val) = b[4 * i.val + j.val] := by
  match j with
  | 0 => simp [blockWord]
  | 1 => simp [blockWord]
  | 2 => simp [blockWord]
  | 3 => simp [blockWord]

end Sys2Proof.Machine
end

