-- ==== Sys2Proof/Laws/Commands.lean ====
section
/-! SUPPORT. How a command ends, and for each command everything it can do: it raises a named error, or its checks
hold and its effect happens. -/

namespace Sys2Proof.Machine

@[simp] theorem raiseError_eq (e : ErrorCode) (s : State) : raiseError e s = .next (s.raise e) := rfl

@[simp] theorem succeed_eq (s : State) : succeed s = .next s.complete := rfl

/-- The command raised an error: its whole effect is R273's. -/
def Raised (s t : State) : Prop := ∃ e, e ≠ ErrorCode.success ∧ t = s.raise e

theorem raised_of_next {e : ErrorCode} {s t : State} (he : e ≠ .success)
    (h : raiseError e s = .next t) : Raised s t := by
  cases h
  exact ⟨e, he, rfl⟩

/-- KEY_EXPAND. -/
theorem execKeyExpand_cases {n : Nat} {s t : State} (h : execKeyExpand n s = .next t) :
    Raised s t ∨ ((n = 16 ∨ n = 24 ∨ n = 32) ∧ t = (expandKey (n / 4) s).complete) := by
  unfold execKeyExpand at h
  split at h
  · exact .inl (raised_of_next (by decide) h)
  · split at h
    · exact .inl (raised_of_next (by decide) h)
    · cases h
      exact .inr ⟨by omega, rfl⟩

/-- What BLOCK_ENC and BLOCK_DEC share. -/
theorem blockCommand_cases {f : Block → Block} {s t : State} (h : blockCommand f s = .next t) :
    Raised s t ∨ (s.keyValid = true ∧ s.len = 16 ∧ inRange s 16 = true ∧ t = (transformAt f s).complete) := by
  unfold blockCommand at h
  split at h
  · exact .inl (raised_of_next (by decide) h)
  · split at h
    · exact .inl (raised_of_next (by decide) h)
    · split at h
      · exact .inl (raised_of_next (by decide) h)
      · cases h
        exact .inr ⟨by simp_all, by simp_all, by simp_all, rfl⟩

/-- CTR_LOAD. -/
theorem execCtrLoad_cases {n : Nat} {s t : State} (h : execCtrLoad n s = .next t) :
    Raised s t ∨ (n = 12 ∧ seedValid s = true ∧ t = (s.loadCtr (loadedCtr s)).complete) := by
  unfold execCtrLoad at h
  split at h
  · exact .inl (raised_of_next (by decide) h)
  · split at h
    · exact .inl (raised_of_next (by decide) h)
    · cases h
      exact .inr ⟨by omega, by simp_all, rfl⟩

/-- CTR_SETVAL. -/
theorem execCtrSetval_cases {s t : State} (h : execCtrSetval s = .next t) :
    Raised s t ∨ (s.ctrValid = true ∧ seedValid s = true
      ∧ t = (s.setCtr (setSuffix s.ctr s.seedLo)).complete) := by
  unfold execCtrSetval at h
  split at h
  · exact .inl (raised_of_next (by decide) h)
  · split at h
    · exact .inl (raised_of_next (by decide) h)
    · cases h
      exact .inr ⟨by simp_all, by simp_all, rfl⟩

/-- CTR_SETBYTES. -/
theorem execCtrSetbytes_cases {s t : State} (h : execCtrSetbytes s = .next t) :
    Raised s t ∨ (s.len = 16 ∧ inRange s 16 = true
      ∧ t = (s.loadCtr (Memory.readBlock s.dmem s.addr.toNat)).complete) := by
  unfold execCtrSetbytes at h
  split at h
  · exact .inl (raised_of_next (by decide) h)
  · split at h
    · exact .inl (raised_of_next (by decide) h)
    · cases h
      exact .inr ⟨by simp_all, by simp_all, rfl⟩

/-- CTR_INC. -/
theorem execCtrInc_cases {s t : State} (h : execCtrInc s = .next t) :
    Raised s t ∨ (s.ctrValid = true
      ∧ ∃ b, increment s.params.ctrOverflow s.ctr = some b ∧ t = (s.setCtr b).complete) := by
  unfold execCtrInc at h
  split at h
  · exact .inl (raised_of_next (by decide) h)
  · split at h
    · exact .inl (raised_of_next (by decide) h)
    · next b hb =>
      cases h
      exact .inr ⟨by simp_all, b, hb, rfl⟩

/-- CTR_CLONE. -/
theorem execCtrClone_cases {s t : State} (h : execCtrClone s = .next t) :
    Raised s t ∨ (s.ctrValid = true ∧ inRange s 16 = true
      ∧ t = (s.setDmem (Memory.writeBlock s.dmem s.addr.toNat s.ctr)).complete) := by
  unfold execCtrClone at h
  split at h
  · exact .inl (raised_of_next (by decide) h)
  · split at h
    · exact .inl (raised_of_next (by decide) h)
    · cases h
      exact .inr ⟨by simp_all, by simp_all, rfl⟩

/-- STREAM_RESET. -/
theorem execStreamReset_cases {s t : State} (h : execStreamReset s = .next t) :
    t = (s.setCursor 16).complete := by
  cases h
  rfl

/-- STREAM_APPLY. -/
theorem execStreamApply_cases {s t : State} (h : execStreamApply s = .next t) :
    Raised s t ∨ (s.keyValid = true ∧ s.ctrValid = true ∧ s.len ≠ 0 ∧ inRange s s.len.toNat = true
      ∧ ¬(s.params.ctrOverflow = .fault ∧ exhausts s.cursor.val (suffix s.ctr).toNat s.len.toNat = true)
      ∧ t = (streamBytes s.addr.toNat s.len.toNat s).complete) := by
  unfold execStreamApply at h
  split at h
  · exact .inl (raised_of_next (by decide) h)
  · split at h
    · exact .inl (raised_of_next (by decide) h)
    · split at h
      · exact .inl (raised_of_next (by decide) h)
      · split at h
        · exact .inl (raised_of_next (by decide) h)
        · split at h
          · exact .inl (raised_of_next (by decide) h)
          · next hk hc hl hr he =>
            cases h
            exact .inr ⟨by simpa using hk, by simpa using hc, hl, by simpa using hr, he, rfl⟩

end Sys2Proof.Machine
end

