-- ==== Sys2Proof/Laws/Operands.lean ====
section
/-! SUPPORT. The checks on operands as plain arithmetic, and the operand forms word by word. -/

namespace Sys2Proof.Machine

/-- SEED as a number (R36). -/
theorem seed_eq (s : State) : seed s = s.seedHi.toNat * 2 ^ 32 + s.seedLo.toNat := by
  unfold seed
  rw [BitVec.toNat_append, Nat.shiftLeft_eq, ← Nat.shiftLeft_eq, ← Nat.shiftLeft_add_eq_or_of_lt s.seedLo.isLt,
    Nat.shiftLeft_eq]

theorem seedValid_iff (s : State) :
    seedValid s = true ↔ s.seedHi.toNat * 2 ^ 32 + s.seedLo.toNat < 2 ^ 32 := by
  simp only [seedValid, seed_eq, decide_eq_true_eq]

theorem seedValid_eq_false_iff (s : State) :
    seedValid s = false ↔ 2 ^ 32 ≤ s.seedHi.toNat * 2 ^ 32 + s.seedLo.toNat := by
  simp only [seedValid, seed_eq, decide_eq_false_iff_not, not_lt]

theorem inRange_iff (s : State) (n : Nat) : inRange s n = true ↔ s.addr.toNat + n ≤ s.params.dmemBytes := by
  simp only [inRange, decide_eq_true_eq]

theorem inRange_eq_false_iff (s : State) (n : Nat) :
    inRange s n = false ↔ s.params.dmemBytes < s.addr.toNat + n := by
  simp only [inRange, decide_eq_false_iff_not, not_le]

theorem word_eq_sixteen_iff (w : Word) : w = 16 ↔ w.toNat = 16 := by
  rw [BitVec.toNat_eq]
  rfl

theorem word_eq_zero_iff (w : Word) : w = 0 ↔ w.toNat = 0 := by
  rw [BitVec.toNat_eq]
  rfl

theorem word_eq_maximum_iff (w : Word) : w = 0xFFFFFFFF ↔ w.toNat = 2 ^ 32 - 1 := by
  rw [BitVec.toNat_eq]
  rfl

/-- The number of keystream blocks in one expression (R234). -/
theorem blocksNeeded_eq {c : Nat} (len : Nat) (hc : c ≤ 16) : blocksNeeded c len = (c + len - 16 + 15) / 16 := by
  unfold blocksNeeded
  split <;> omega

theorem exhausts_iff {c : Nat} (s0 len : Nat) (hc : c ≤ 16) :
    exhausts c s0 len = true ↔ 16 < c + len ∧ 2 ^ 32 ≤ s0 + (c + len - 16 + 15) / 16 := by
  simp only [exhausts, blocksNeeded_eq len hc, decide_eq_true_eq]
  omega

/-- A key word is the KEY register of the same number (R38, R161). -/
theorem keyWord_eq (s : State) (i : Nat) : keyWord s i = s.key.getD i 0 := by
  apply word_ext <;>
    simp [keyWord, keyByte, show 4 * i / 4 = i by omega,
      show (4 * i + 1) / 4 = i by omega, show (4 * i + 2) / 4 = i by omega, show (4 * i + 3) / 4 = i by omega]

end Sys2Proof.Machine
end

