-- ==== Sys2Proof/Laws/Stream.lean ====
section
/-! SUPPORT. The byte loop of STREAM_APPLY: how it splits, what it leaves alone, and that it keeps the memory's
canonical form and bound. -/

namespace Sys2Proof.Machine

/-- The loop over m + n bytes is the loop over m bytes and then over n more. -/
theorem streamBytes_append (a m n : Nat) (s : State) :
    streamBytes a (m + n) s = streamBytes (a + m) n (streamBytes a m s) := by
  induction m generalizing a s with
  | zero => simp [streamBytes]
  | succ m ih =>
    rw [show m + 1 + n = (m + n) + 1 by omega]
    simp only [streamBytes]
    rw [ih, show a + 1 + m = a + (m + 1) by omega]

/-- The last byte of the loop, taken apart. -/
theorem streamBytes_succ (a n : Nat) (s : State) :
    streamBytes a (n + 1) s = streamByte (a + n) (streamBytes a n s) := by
  rw [streamBytes_append]
  rfl

/-- Two states that differ in DMEM, CTR, REM and CURSOR alone. -/
def StreamFrame (s t : State) : Prop :=
  t = { s with dmem := t.dmem, ctr := t.ctr, remainder := t.remainder, cursor := t.cursor }

theorem streamFrame_refl (s : State) : StreamFrame s s := rfl

theorem streamFrame_trans {s t u : State} (h : StreamFrame s t) (k : StreamFrame t u) : StreamFrame s u := by
  unfold StreamFrame at *
  rw [k, h]

theorem refill_frame (s : State) : StreamFrame s (refill s) := rfl

theorem consume_frame (a : Nat) (s : State) : StreamFrame s (consume a s) := by
  unfold consume StreamFrame
  split <;> rfl

theorem streamByte_frame (a : Nat) (s : State) : StreamFrame s (streamByte a s) := by
  unfold streamByte
  split
  · exact streamFrame_trans (refill_frame s) (consume_frame a _)
  · exact consume_frame a s

/-- The loop changes DMEM, CTR, REM and CURSOR alone. -/
theorem streamBytes_frame (a n : Nat) (s : State) : StreamFrame s (streamBytes a n s) := by
  induction n with
  | zero => exact streamFrame_refl s
  | succ n ih =>
    rw [streamBytes_succ]
    exact streamFrame_trans ih (streamByte_frame _ _)

/-- One byte of the loop writes one byte of memory. -/
theorem streamByte_dmem (a : Nat) (s : State) : ∃ v, (streamByte a s).dmem = Memory.write s.dmem a v := by
  unfold streamByte consume
  split
  · exact ⟨_, by simp [refill]; rfl⟩
  · next h =>
    have h16 : s.cursor.val < 16 := by have := s.cursor.isLt; omega
    simp only [h16, dif_pos]
    exact ⟨_, rfl⟩

/-- The loop leaves every byte outside its range alone. -/
theorem streamBytes_read_outside (a n b : Nat) (s : State) (h : b < a ∨ a + n ≤ b) :
    Memory.read (streamBytes a n s).dmem b = Memory.read s.dmem b := by
  induction n with
  | zero => rfl
  | succ n ih =>
    rw [streamBytes_succ]
    obtain ⟨v, hv⟩ := streamByte_dmem (a + n) (streamBytes a n s)
    rw [hv, Memory.read_write_other _ _ (by omega), ih (by omega)]

theorem streamBytes_wf {s : State} (h : Memory.wf s.dmem = true) (a n : Nat) :
    Memory.wf (streamBytes a n s).dmem = true := by
  induction n with
  | zero => exact h
  | succ n ih =>
    rw [streamBytes_succ]
    obtain ⟨v, hv⟩ := streamByte_dmem (a + n) (streamBytes a n s)
    rw [hv]
    exact Memory.wf_write ih _ _

theorem streamBytes_below {s : State} {a n b : Nat} (h : Memory.below s.dmem b = true) (hn : a + n ≤ b) :
    Memory.below (streamBytes a n s).dmem b = true := by
  induction n with
  | zero => exact h
  | succ n ih =>
    rw [streamBytes_succ]
    obtain ⟨v, hv⟩ := streamByte_dmem (a + n) (streamBytes a n s)
    rw [hv]
    exact Memory.below_write (ih (by omega)) (by omega) v

end Sys2Proof.Machine
end

