-- ==== Sys2Proof/Laws/Step.lean ====
section
/-! SUPPORT. One step: an event of each kind, inside and outside the interface. -/

namespace Sys2Proof.Machine

theorem step_nil {s : State} (h : s.host = []) : step s = .next s := by
  simp [step, h, idle]

theorem step_cons {s : State} {e : HostEvent} {rest : List HostEvent} (h : s.host = e :: rest) :
    step s = perform e (s.takeEvent rest) := by
  simp [step, h]

/-- An access of the interface goes through; another is refused. -/
theorem checkAccess_cases (width off : Nat) (go : Result) :
    (width = 32 ∧ off % 4 = 0 ∧ checkAccess width off go = go)
      ∨ (width ≠ 32 ∧ checkAccess width off go = .refused (.accessWidth width))
      ∨ (width = 32 ∧ off % 4 ≠ 0 ∧ checkAccess width off go = .refused (.accessAlignment off)) := by
  unfold checkAccess
  by_cases hw : width = 32
  · by_cases ho : off % 4 = 0
    · exact .inl ⟨hw, ho, by simp [hw, ho]⟩
    · exact .inr (.inr ⟨hw, ho, by simp [hw, ho]⟩)
  · exact .inr (.inl ⟨hw, by simp [hw]⟩)

@[simp] theorem portReg_cmd (n : Nat) : portReg n 0 = .cmd := by
  simp [portReg, scalarReg]

@[simp] theorem perform_reset (s : State) : perform .reset s = .next (platformReset s) := rfl

/-- A command word written to CMD. -/
theorem perform_issue (v : Word) (s : State) : perform (issue v) s = runCommand v s.nextEpoch := by
  simp [perform, issue, checkAccess, hostWrite]

/-- A step that answers a next state did one of these things. -/
theorem step_cases {s t : State} (h : step s = .next t) :
    (s.host = [] ∧ t = s)
      ∨ (∃ off rest, s.host = .read 32 off :: rest ∧ off % 4 = 0 ∧ t = hostRead off (s.takeEvent rest))
      ∨ (∃ off v rest, s.host = .write 32 off v :: rest ∧ off % 4 = 0
          ∧ portReg s.params.dmemBytes off = .cmd ∧ runCommand v (s.takeEvent rest).nextEpoch = .next t)
      ∨ (∃ off v rest, s.host = .write 32 off v :: rest ∧ off % 4 = 0
          ∧ portReg s.params.dmemBytes off ≠ .cmd
          ∧ t = writeReg (portReg s.params.dmemBytes off) v (s.takeEvent rest).nextEpoch)
      ∨ (∃ rest, s.host = .reset :: rest ∧ t = platformReset (s.takeEvent rest)) := by
  cases hh : s.host with
  | nil =>
    rw [step_nil hh] at h
    cases h
    exact .inl ⟨rfl, rfl⟩
  | cons e rest =>
    rw [step_cons hh] at h
    cases e with
    | read width off =>
      rcases checkAccess_cases width off (.next (hostRead off (s.takeEvent rest))) with ⟨rfl, ho, e⟩ | ⟨_, e⟩ | ⟨_, _, e⟩
      · rw [perform, e] at h
        cases h
        exact .inr (.inl ⟨off, rest, rfl, ho, rfl⟩)
      · rw [perform, e] at h; cases h
      · rw [perform, e] at h; cases h
    | write width off v =>
      rcases checkAccess_cases width off (hostWrite off v (s.takeEvent rest)) with ⟨rfl, ho, e⟩ | ⟨_, e⟩ | ⟨_, _, e⟩
      · rw [perform, e, hostWrite] at h
        split at h
        · next hc => exact .inr (.inr (.inl ⟨off, v, rest, rfl, ho, hc, h⟩))
        · next hc =>
          cases h
          exact .inr (.inr (.inr (.inl ⟨off, v, rest, rfl, ho, hc, rfl⟩)))
      · rw [perform, e] at h; cases h
      · rw [perform, e] at h; cases h
    | reset =>
      cases h
      exact .inr (.inr (.inr (.inr ⟨rest, rfl, rfl⟩)))

/-- A write to CMD performs a legal command or raises CommandInvalid. -/
theorem runCommand_cases (v : Word) (s : State) :
    (∃ i, decode v = .command i ∧ runCommand v s = exec i s)
      ∨ (∃ why, decode v = .illegal why ∧ runCommand v s = .next (s.raise .commandInvalid)) := by
  unfold runCommand
  cases h : decode v with
  | command i => exact .inl ⟨i, rfl, rfl⟩
  | illegal why => exact .inr ⟨why, rfl, rfl⟩

end Sys2Proof.Machine
end

