-- ==== Sys2Proof/Laws/Effects.lean ====
section
/-! SUPPORT. What any command can do, said once: it raises an error, or its own effect happens; and which fields each
effect touches. Claims over all commands cite these instead of unfolding the meanings. -/

namespace Sys2Proof.Machine

/-- t is s after the own effect of command i, its checks having held. -/
def Effect (i : Instr) (s t : State) : Prop :=
  match i with
  | .keyExpand n => (n = 16 ∨ n = 24 ∨ n = 32) ∧ t = (expandKey (n / 4) s).complete
  | .blockEnc =>
    s.keyValid = true ∧ s.len = 16 ∧ inRange s 16 = true ∧ t = (transformAt (encryptBlock s) s).complete
  | .blockDec =>
    s.keyValid = true ∧ s.len = 16 ∧ inRange s 16 = true ∧ t = (transformAt (decryptBlock s) s).complete
  | .ctrLoad n => n = 12 ∧ seedValid s = true ∧ t = (s.loadCtr (loadedCtr s)).complete
  | .ctrSetval =>
    s.ctrValid = true ∧ seedValid s = true ∧ t = (s.setCtr (setSuffix s.ctr s.seedLo)).complete
  | .ctrSetbytes =>
    s.len = 16 ∧ inRange s 16 = true ∧ t = (s.loadCtr (Memory.readBlock s.dmem s.addr.toNat)).complete
  | .ctrInc =>
    s.ctrValid = true ∧ ∃ b, increment s.params.ctrOverflow s.ctr = some b ∧ t = (s.setCtr b).complete
  | .ctrClone =>
    s.ctrValid = true ∧ inRange s 16 = true
      ∧ t = (s.setDmem (Memory.writeBlock s.dmem s.addr.toNat s.ctr)).complete
  | .streamReset => t = (s.setCursor 16).complete
  | .streamApply =>
    s.keyValid = true ∧ s.ctrValid = true ∧ s.len ≠ 0 ∧ inRange s s.len.toNat = true
      ∧ ¬(s.params.ctrOverflow = .fault ∧ exhausts s.cursor.val (suffix s.ctr).toNat s.len.toNat = true)
      ∧ t = (streamBytes s.addr.toNat s.len.toNat s).complete

/-- A command that answers a next state raised an error or had its effect. -/
theorem exec_cases {i : Instr} {s t : State} (h : exec i s = .next t) : Raised s t ∨ Effect i s t := by
  cases i
  · exact execKeyExpand_cases h
  · exact blockCommand_cases h
  · exact blockCommand_cases h
  · exact execCtrLoad_cases h
  · exact execCtrSetval_cases h
  · exact execCtrSetbytes_cases h
  · exact execCtrInc_cases h
  · exact execCtrClone_cases h
  · exact .inr (execStreamReset_cases h)
  · exact execStreamApply_cases h

/-- A written command word that answers a next state raised an error or had the effect of the command it decodes to. -/
theorem runCommand_effect {v : Word} {s t : State} (h : runCommand v s = .next t) :
    Raised s t ∨ ∃ i, decode v = .command i ∧ Effect i s t := by
  rcases runCommand_cases v s with ⟨i, hd, e⟩ | ⟨why, hd, e⟩
  · rw [e] at h
    exact (exec_cases h).imp id fun x => ⟨i, hd, x⟩
  · rw [e] at h
    cases h
    exact .inl ⟨_, by decide, rfl⟩

/-- A command that is not illegal runs its meaning, and one that answers a success had its effect. -/
theorem effect_of_success {i : Instr} {s t : State} (h : exec i s = .next t) (ht : t.err = .success) :
    Effect i s t := by
  rcases exec_cases h with ⟨e, he, rfl⟩ | hE
  · exact absurd ht he
  · exact hE

/-- The fields no command's own effect touches. -/
def EffectFrame (s t : State) : Prop :=
  t.params = s.params ∧ t.addr = s.addr ∧ t.len = s.len ∧ t.seedLo = s.seedLo ∧ t.seedHi = s.seedHi
    ∧ t.nonce = s.nonce ∧ t.key = s.key ∧ t.err = .success ∧ t.sticky = s.sticky ∧ t.host = s.host
    ∧ t.readData = s.readData ∧ t.epoch = s.epoch ∧ t.draws = s.draws

/-- What the byte loop of STREAM_APPLY leaves in each field it does not write. -/
theorem streamBytes_fields (a n : Nat) (s : State) :
    (streamBytes a n s).params = s.params ∧ (streamBytes a n s).addr = s.addr ∧ (streamBytes a n s).len = s.len
      ∧ (streamBytes a n s).seedLo = s.seedLo ∧ (streamBytes a n s).seedHi = s.seedHi
      ∧ (streamBytes a n s).nonce = s.nonce ∧ (streamBytes a n s).key = s.key ∧ (streamBytes a n s).err = s.err
      ∧ (streamBytes a n s).sticky = s.sticky ∧ (streamBytes a n s).keyValid = s.keyValid
      ∧ (streamBytes a n s).nr = s.nr ∧ (streamBytes a n s).ek = s.ek ∧ (streamBytes a n s).dk = s.dk
      ∧ (streamBytes a n s).ctrValid = s.ctrValid ∧ (streamBytes a n s).host = s.host
      ∧ (streamBytes a n s).readData = s.readData ∧ (streamBytes a n s).epoch = s.epoch
      ∧ (streamBytes a n s).draws = s.draws := by
  have h := streamBytes_frame a n s
  unfold StreamFrame at h
  rw [h]
  simp

theorem effect_frame {i : Instr} {s t : State} (h : Effect i s t) : EffectFrame s t := by
  unfold EffectFrame
  cases i with
  | keyExpand n => obtain ⟨_, rfl⟩ := h; simp [expandKey]
  | blockEnc => obtain ⟨_, _, _, rfl⟩ := h; simp [transformAt]
  | blockDec => obtain ⟨_, _, _, rfl⟩ := h; simp [transformAt]
  | ctrLoad n => obtain ⟨_, _, rfl⟩ := h; simp
  | ctrSetval => obtain ⟨_, _, rfl⟩ := h; simp
  | ctrSetbytes => obtain ⟨_, _, rfl⟩ := h; simp
  | ctrInc => obtain ⟨_, _, _, rfl⟩ := h; simp
  | ctrClone => obtain ⟨_, _, rfl⟩ := h; simp
  | streamReset => cases h; simp
  | streamApply =>
    obtain ⟨_, _, _, _, _, rfl⟩ := h
    simp [streamBytes_fields]

/-- Only KEY_EXPAND's effect writes the round keys. -/
theorem effect_keys {i : Instr} {s t : State} (h : Effect i s t) :
    (∃ n, i = .keyExpand n) ∨ (t.keyValid = s.keyValid ∧ t.nr = s.nr ∧ t.ek = s.ek ∧ t.dk = s.dk) := by
  cases i with
  | keyExpand n => exact .inl ⟨n, rfl⟩
  | blockEnc => obtain ⟨_, _, _, rfl⟩ := h; simp [transformAt]
  | blockDec => obtain ⟨_, _, _, rfl⟩ := h; simp [transformAt]
  | ctrLoad n => obtain ⟨_, _, rfl⟩ := h; simp
  | ctrSetval => obtain ⟨_, _, rfl⟩ := h; simp
  | ctrSetbytes => obtain ⟨_, _, rfl⟩ := h; simp
  | ctrInc => obtain ⟨_, _, _, rfl⟩ := h; simp
  | ctrClone => obtain ⟨_, _, rfl⟩ := h; simp
  | streamReset => cases h; simp
  | streamApply => obtain ⟨_, _, _, _, _, rfl⟩ := h; simp [streamBytes_fields]

/-! ## Data memory -/

/-- What each command's effect does to the data memory. -/
theorem effect_dmem {i : Instr} {s t : State} (h : Effect i s t) :
    t.dmem = s.dmem
      ∨ (s.addr.toNat + 16 ≤ s.params.dmemBytes ∧ (i = .blockEnc ∨ i = .blockDec ∨ i = .ctrClone)
          ∧ ∃ b, t.dmem = Memory.writeBlock s.dmem s.addr.toNat b)
      ∨ (s.addr.toNat + s.len.toNat ≤ s.params.dmemBytes ∧ i = .streamApply
          ∧ t.dmem = (streamBytes s.addr.toNat s.len.toNat s).dmem) := by
  cases i with
  | keyExpand n => obtain ⟨_, rfl⟩ := h; simp [expandKey]
  | blockEnc =>
    obtain ⟨_, _, hr, rfl⟩ := h
    exact .inr (.inl ⟨(inRange_iff s 16).1 hr, .inl rfl, _, by simp only [transformAt, State.complete_dmem, State.setDmem_dmem]; rfl⟩)
  | blockDec =>
    obtain ⟨_, _, hr, rfl⟩ := h
    exact .inr (.inl ⟨(inRange_iff s 16).1 hr, .inr (.inl rfl), _, by simp only [transformAt, State.complete_dmem, State.setDmem_dmem]; rfl⟩)
  | ctrLoad n => obtain ⟨_, _, rfl⟩ := h; simp
  | ctrSetval => obtain ⟨_, _, rfl⟩ := h; simp
  | ctrSetbytes => obtain ⟨_, _, rfl⟩ := h; simp
  | ctrInc => obtain ⟨_, _, _, rfl⟩ := h; simp
  | ctrClone =>
    obtain ⟨_, hr, rfl⟩ := h
    exact .inr (.inl ⟨(inRange_iff s 16).1 hr, .inr (.inr rfl), _, by simp only [State.complete_dmem, State.setDmem_dmem]; rfl⟩)
  | streamReset => cases h; simp
  | streamApply =>
    obtain ⟨_, _, _, hr, _, rfl⟩ := h
    exact .inr (.inr ⟨(inRange_iff s _).1 hr, rfl, by simp only [State.complete_dmem]⟩)

/-- Every command's effect keeps the canonical form of the data memory. -/
theorem effect_wf {i : Instr} {s t : State} (h : Effect i s t) (hw : Memory.wf s.dmem = true) :
    Memory.wf t.dmem = true := by
  rcases effect_dmem h with e | ⟨_, _, b, e⟩ | ⟨_, _, e⟩ <;> rw [e]
  · exact hw
  · exact Memory.wf_writeBlock hw _ _
  · exact streamBytes_wf hw _ _

/-- Every command's effect stays inside the data memory. -/
theorem effect_below {i : Instr} {s t : State} (h : Effect i s t)
    (hb : Memory.below s.dmem s.params.dmemBytes = true) : Memory.below t.dmem s.params.dmemBytes = true := by
  rcases effect_dmem h with e | ⟨hr, _, b, e⟩ | ⟨hr, _, e⟩ <;> rw [e]
  · exact hb
  · exact Memory.below_writeBlock hb hr
  · exact streamBytes_below hb hr

/-! ## The port map -/

/-- CMD stands at offset 0 alone. -/
theorem portReg_eq_cmd {n off : Nat} (h : portReg n off = .cmd) : off = 0 := by
  unfold portReg scalarReg bankReg at h
  split_ifs at h
  assumption

/-- A window word stands at 0x1000 plus its address, wholly inside the data memory. -/
theorem portReg_eq_dmem {n off a : Nat} (h : portReg n off = .dmem a) : off = 0x1000 + a ∧ a + 4 ≤ n := by
  unfold portReg at h
  split_ifs at h with h1 h2 h3
  · unfold scalarReg at h
    split_ifs at h
  · unfold bankReg at h
    split_ifs at h
  · rw [PortReg.dmem.injEq] at h
    omega

/-- The fields a register write does not touch. -/
theorem writeReg_fields (r : PortReg) (v : Word) (s : State) :
    (writeReg r v s).params = s.params ∧ (writeReg r v s).err = s.err ∧ (writeReg r v s).sticky = s.sticky
      ∧ (writeReg r v s).keyValid = s.keyValid ∧ (writeReg r v s).nr = s.nr ∧ (writeReg r v s).ek = s.ek
      ∧ (writeReg r v s).dk = s.dk ∧ (writeReg r v s).ctrValid = s.ctrValid ∧ (writeReg r v s).ctr = s.ctr
      ∧ (writeReg r v s).remainder = s.remainder ∧ (writeReg r v s).cursor = s.cursor
      ∧ (writeReg r v s).host = s.host ∧ (writeReg r v s).readData = s.readData
      ∧ (writeReg r v s).epoch = s.epoch ∧ (writeReg r v s).draws = s.draws := by
  cases r <;> simp [writeReg]

end Sys2Proof.Machine
end

