-- ==== Sys2Proof/Laws/HostSequences.lean ====
section
/-! SUPPORT. What the host makes of its reads: words taken apart into bytes, and the answers of a list of events. -/

namespace Sys2Proof.Machine

@[simp] theorem wordBytes_length (w : Word) : (wordBytes w).length = 4 := rfl

@[simp] theorem wordBytes_pack32 (a b c d : Byte) : wordBytes (pack32 a b c d) = [a, b, c, d] := by
  simp [wordBytes]

/-- The window word at a, taken apart, is the four bytes from a on (R71). -/
theorem wordBytes_readWord (m : Memory) (a : Nat) :
    wordBytes (Memory.readWord m a)
      = [Memory.read m a, Memory.read m (a + 1), Memory.read m (a + 2), Memory.read m (a + 3)] := by
  simp [Memory.readWord]

@[simp] theorem unpackWords_nil : unpackWords [] = [] := rfl

@[simp] theorem unpackWords_cons (w : Word) (ws : List Word) :
    unpackWords (w :: ws) = wordBytes w ++ unpackWords ws := by
  simp [unpackWords]

/-- The reads of rdbytes over one word more: the first, and those from four bytes on. -/
theorem rdbytesSequence_succ (a k : Nat) :
    rdbytesSequence a (4 * (k + 1)) = rd (0x1000 + a) :: rdbytesSequence (a + 4) (4 * k) := by
  simp only [rdbytesSequence, Nat.mul_div_cancel_left _ (by decide : 0 < 4), List.range_succ_eq_map, List.map_cons,
    List.map_map]
  congr 1
  apply List.map_congr_left
  intro j _
  simp only [Function.comp]
  congr 1
  omega

/-- The writes of wrbytes of four bytes and more: the first word, and those from four bytes on. -/
theorem wrbytesSequence_cons (a : Nat) (b0 b1 b2 b3 : Byte) (bs : List Byte) :
    wrbytesSequence a (b0 :: b1 :: b2 :: b3 :: bs)
      = wr (0x1000 + a) (pack32 b0 b1 b2 b3) :: wrbytesSequence (a + 4) bs := by
  have hl : (b0 :: b1 :: b2 :: b3 :: bs).length / 4 = bs.length / 4 + 1 := by
    simp only [List.length_cons]
    omega
  simp only [wrbytesSequence, hl, List.range_succ_eq_map, List.map_cons, List.map_map]
  congr 1
  apply List.map_congr_left
  intro j _
  simp only [Function.comp, stringWord, show 4 * (j + 1) = 4 * j + 1 + 1 + 1 + 1 by omega, List.getD_cons_succ]
  congr 1
  omega

@[simp] theorem answers_zero (s : State) : answers 0 s = [] := rfl

/-- One event that goes through: its answer, if it has one, comes first. -/
theorem answers_succ {s t : State} (h : step s = .next t) (k : Nat) :
    answers (k + 1) s = t.readData.toList ++ answers k t := by
  simp [answers, h]

/-- A run whose first step goes through. -/
theorem run_succ {s t : State} (h : step s = .next t) (k : Nat) :
    Host.Core.run Sys2Proof.core (k + 1) s = Host.Core.run Sys2Proof.core k t := by
  have hc : Sys2Proof.core.step s = .next t := h
  simp only [Host.Core.run, hc]

/-- An aligned window word is where the map has it. -/
theorem portReg_window {n a : Nat} (h : a + 4 ≤ n) : portReg n (0x1000 + a) = .dmem a := by
  rw [portReg, if_neg (by omega), if_neg (by omega), if_pos (by omega), Nat.add_sub_cancel_left]

/-- A read of a window word returns it and changes nothing else (R71, R77). -/
theorem step_read_window {s : State} {a : Nat} {rest : List HostEvent} (h : s.host = .read 32 (0x1000 + a) :: rest)
    (ha : a % 4 = 0) (hn : a + 4 ≤ s.params.dmemBytes) :
    step s = .next { s with host := rest, readData := some (Memory.readWord s.dmem a) } := by
  have ho : (0x1000 + a) % 4 = 0 := by omega
  simp [step_cons h, perform, checkAccess, ho, hostRead, readValue, portReg_window hn, drawsFree, State.takeEvent]

/-- A write of a window word sets its four bytes (R71). -/
theorem step_write_window {s : State} {a : Nat} {v : Word} {rest : List HostEvent}
    (h : s.host = .write 32 (0x1000 + a) v :: rest) (ha : a % 4 = 0) (hn : a + 4 ≤ s.params.dmemBytes) :
    step s = .next { s with
      host := rest, readData := none, epoch := s.epoch + 1, dmem := Memory.writeWord s.dmem a v } := by
  have ho : (0x1000 + a) % 4 = 0 := by omega
  simp [step_cons h, perform, checkAccess, ho, hostWrite, portReg_window hn, writeReg, State.takeEvent,
    State.nextEpoch, State.setDmem]

end Sys2Proof.Machine
end

