-- ==== Sys2Proof/Laws/PerInstr.lean ====
section
/-! SUPPORT. Facts about each command as syntax, one lemma per constructor. -/

namespace Sys2Proof.Laws.EncodedFields

/-- The word of a well-formed command has RSV = 0, its opcode in OP and its immediate in IMM6 (R100). -/
def Statement (i : Instr) : Prop :=
  i.wellFormed = true →
    rsvField (encode i) = 0 ∧ opField (encode i) = opcode i ∧ (immField (encode i)).toNat = immediate i

/-- The bits of a word put together from RSV = 0, IMM6 and OP. -/
theorem getLsbD_word (imm : BitVec 6) (op : BitVec 8) (i : Nat) :
    ((0 : BitVec 18) ++ imm ++ op : Word).getLsbD i
      = if i < 8 then op.getLsbD i else if i < 14 then imm.getLsbD (i - 8) else false := by
  have h : ((0 : BitVec 18) ++ imm ++ op : Word).getLsbD i
      = ((0 : BitVec 18) ++ imm ++ op : BitVec (18 + 6 + 8)).getLsbD i := rfl
  rw [h, BitVec.getLsbD_append, BitVec.getLsbD_append]
  by_cases h8 : i < 8
  · simp [h8]
  · by_cases h14 : i < 14
    · simp [h8, h14, show i - 8 < 6 by omega]
    · simp [h8, h14, show ¬(i - 8 < 6) by omega]

theorem fields_of_word (imm : Nat) (op : BitVec 8) (h : imm < 64) :
    rsvField ((0 : BitVec 18) ++ BitVec.ofNat 6 imm ++ op) = 0
      ∧ opField ((0 : BitVec 18) ++ BitVec.ofNat 6 imm ++ op) = op
      ∧ (immField ((0 : BitVec 18) ++ BitVec.ofNat 6 imm ++ op)).toNat = imm := by
  refine ⟨?_, ?_, ?_⟩
  · apply BitVec.eq_of_getLsbD_eq
    intro i hi
    rw [rsvField, BitVec.getLsbD_extractLsb', getLsbD_word]
    simp [show ¬(14 + i < 8) by omega, show ¬(14 + i < 14) by omega]
  · apply BitVec.eq_of_getLsbD_eq
    intro i hi
    rw [opField, BitVec.getLsbD_extractLsb', getLsbD_word]
    simp [hi]
  · have : immField ((0 : BitVec 18) ++ BitVec.ofNat 6 imm ++ op) = BitVec.ofNat 6 imm := by
      apply BitVec.eq_of_getLsbD_eq
      intro i hi
      rw [immField, BitVec.getLsbD_extractLsb', getLsbD_word]
      simp [hi, show ¬(8 + i < 8) by omega, show 8 + i < 14 by omega]
    rw [this, BitVec.toNat_ofNat]
    omega

theorem keyExpand (keylen : Nat) : Statement (.keyExpand keylen) := fun h =>
  fields_of_word keylen 0x01 (by simpa [Instr.wellFormed] using h)
theorem blockEnc : Statement .blockEnc := fun _ => fields_of_word 0 0x02 (by decide)
theorem blockDec : Statement .blockDec := fun _ => fields_of_word 0 0x03 (by decide)
theorem ctrLoad (nlen : Nat) : Statement (.ctrLoad nlen) := fun h =>
  fields_of_word nlen 0x04 (by simpa [Instr.wellFormed] using h)
theorem ctrSetval : Statement .ctrSetval := fun _ => fields_of_word 0 0x05 (by decide)
theorem ctrSetbytes : Statement .ctrSetbytes := fun _ => fields_of_word 0 0x06 (by decide)
theorem ctrInc : Statement .ctrInc := fun _ => fields_of_word 0 0x07 (by decide)
theorem ctrClone : Statement .ctrClone := fun _ => fields_of_word 0 0x08 (by decide)
theorem streamReset : Statement .streamReset := fun _ => fields_of_word 0 0x09 (by decide)
theorem streamApply : Statement .streamApply := fun _ => fields_of_word 0 0x0A (by decide)

end Sys2Proof.Laws.EncodedFields
end

