-- ==== Sys2Proof/Tests/Slice0.lean ====
section
/-! SUPPORT. Tests: expected results are the spec's own (95_test_vectors.md, R107, R138), and one witness for the
hypotheses of each statement that has some. -/

namespace Sys2Proof.Tests

open Sys2Proof Sys2Proof.Machine

-- One theorem after another: elaborated side by side they wait for one another, each holding a thread's memory.
set_option Elab.async false

/-! ## WellFormed (R107: an immediate outside 0..63 cannot be written) -/

theorem test_wellFormed_refuses_keyExpand_64 : (Instr.keyExpand 64).wellFormed = false := by decide
theorem test_wellFormed_refuses_ctrLoad_64 : (Instr.ctrLoad 64).wellFormed = false := by decide
theorem test_wellFormed_admits_63 :
    (Instr.keyExpand 63).wellFormed = true ∧ (Instr.ctrLoad 63).wellFormed = true := by decide

/-! ## Decoding: the words of R107, one for each constructor, written out as RSV, IMM6, OP (R100) -/

theorem test_decode_keyExpand : decode 0b000000000000000000_011000_00000001 = .command (.keyExpand 24) := by decide
theorem test_decode_blockEnc : decode 0b000000000000000000_000000_00000010 = .command .blockEnc := by decide
theorem test_decode_blockDec : decode 0b000000000000000000_000000_00000011 = .command .blockDec := by decide
theorem test_decode_ctrLoad : decode 0b000000000000000000_001100_00000100 = .command (.ctrLoad 12) := by decide
theorem test_decode_ctrSetval : decode 0b000000000000000000_000000_00000101 = .command .ctrSetval := by decide
theorem test_decode_ctrSetbytes : decode 0b000000000000000000_000000_00000110 = .command .ctrSetbytes := by decide
theorem test_decode_ctrInc : decode 0b000000000000000000_000000_00000111 = .command .ctrInc := by decide
theorem test_decode_ctrClone : decode 0b000000000000000000_000000_00001000 = .command .ctrClone := by decide
theorem test_decode_streamReset : decode 0b000000000000000000_000000_00001001 = .command .streamReset := by decide
theorem test_decode_streamApply : decode 0b000000000000000000_000000_00001010 = .command .streamApply := by decide

/-- V60, the illegal words. -/
theorem test_decode_illegal :
    decode 0x00000000 = .illegal .unknownOpcode ∧ decode 0x0000000B = .illegal .unknownOpcode
      ∧ decode 0x000000FF = .illegal .unknownOpcode ∧ decode 0x00000102 = .illegal .immediateNotZero
      ∧ decode 0x00004009 = .illegal .reservedBits ∧ decode 0x80000007 = .illegal .reservedBits := by decide

/-- R107's words from the encoder. -/
theorem test_encode_words :
    encode (.keyExpand 16) = 0x00001001 ∧ encode (.keyExpand 32) = 0x00002001
      ∧ encode (.ctrLoad 12) = 0x00000C04 ∧ encode .streamApply = 0x0000000A := by decide

/-- The opcode table's first row, with KEYLEN 16. -/
theorem test_decodeTableWord : decodeTableWord 32 0x00001001 = some (.keyExpand 16) := by decide

/-! ## Helper states -/

/-- The state an outcome answers, if it answers one. -/
def next? : Result → Option State
  | .next t => some t
  | .fault _ => none
  | .refused _ => none

/-- Bytes from their numbers. -/
def bytes (l : List Nat) : List Byte := l.map (BitVec.ofNat 8)

/-- Memory with the given bytes from an address. -/
def memoryAt (a : Nat) (l : List Nat) : Memory := Memory.writeBytes [] a (bytes l)

/-- N bytes of DMEM from an address, as numbers. -/
def readAt (s : State) (a n : Nat) : List Nat := (List.range n).map fun i => (Memory.read s.dmem (a + i)).toNat

/-- A block as numbers. -/
def blockNumbers (b : Block) : List Nat := b.toList.map BitVec.toNat

/-- A block from numbers. -/
def blockOf (l : List Nat) : Block := Vector.ofFn fun j => BitVec.ofNat 8 (l.getD j.val 0)

/-- The nonce 000102..0b of the vectors, before a suffix. -/
def counterOf (suffixBytes : List Nat) : Block := blockOf ([0, 1, 2, 3, 4, 5, 6, 7, 8, 9, 10, 11] ++ suffixBytes)

/-- The plaintext of V1. -/
def plain : List Nat :=
  [0x00, 0x11, 0x22, 0x33, 0x44, 0x55, 0x66, 0x77, 0x88, 0x99, 0xaa, 0xbb, 0xcc, 0xdd, 0xee, 0xff]

/-- The ciphertext of V1. -/
def cipher : List Nat :=
  [0x69, 0xc4, 0xe0, 0xd8, 0x6a, 0x7b, 0x04, 0x30, 0xd8, 0xcd, 0xb7, 0x80, 0x70, 0xb4, 0xc5, 0x5a]

/-- After reset, with another overflow parameter. -/
def resetUnder (o : CtrOverflow) : State := State.resetWith { Params.standard with ctrOverflow := o }

/-- After reset, with the 16-byte key K128 in KEY0..KEY3. -/
def withKey : State :=
  { State.reset with key := #v[0x00010203, 0x04050607, 0x08090a0b, 0x0c0d0e0f, 0, 0, 0, 0] }

/-- V10's encryption rows. -/
def v10Ek : List RoundKey :=
  [#v[0x00010203, 0x04050607, 0x08090a0b, 0x0c0d0e0f], #v[0xd6aa74fd, 0xd2af72fa, 0xdaa678f1, 0xd6ab76fe],
   #v[0xb692cf0b, 0x643dbdf1, 0xbe9bc500, 0x6830b3fe], #v[0xb6ff744e, 0xd2c2c9bf, 0x6c590cbf, 0x0469bf41],
   #v[0x47f7f7bc, 0x95353e03, 0xf96c32bc, 0xfd058dfd], #v[0x3caaa3e8, 0xa99f9deb, 0x50f3af57, 0xadf622aa],
   #v[0x5e390f7d, 0xf7a69296, 0xa7553dc1, 0x0aa31f6b], #v[0x14f9701a, 0xe35fe28c, 0x440adf4d, 0x4ea9c026],
   #v[0x47438735, 0xa41c65b9, 0xe016baf4, 0xaebf7ad2], #v[0x549932d1, 0xf0855768, 0x1093ed9c, 0xbe2c974e],
   #v[0x13111d7f, 0xe3944a17, 0xf307a78b, 0x4d2b30c5]]

/-- V10's decryption rows. -/
def v10Dk : List RoundKey :=
  [#v[0x13111d7f, 0xe3944a17, 0xf307a78b, 0x4d2b30c5], #v[0x13aa29be, 0x9c8faff6, 0xf770f580, 0x00f7bf03],
   #v[0x1362a463, 0x8f258648, 0x6bff5a76, 0xf7874a83], #v[0x8d82fc74, 0x9c47222b, 0xe4dadc3e, 0x9c7810f5],
   #v[0x72e3098d, 0x11c5de5f, 0x789dfe15, 0x78a2cccb], #v[0x2ec41027, 0x6326d7d2, 0x6958204a, 0x003f32de],
   #v[0xa8a2f504, 0x4de2c7f5, 0x0a7ef798, 0x69671294], #v[0xc7c6e391, 0xe54032f1, 0x479c306d, 0x6319e50c],
   #v[0xa0db0299, 0x2286d160, 0xa2dc029c, 0x2485d561], #v[0x8c56dff0, 0x825dd3f9, 0x805ad3fc, 0x8659d7fd],
   #v[0x00010203, 0x04050607, 0x08090a0b, 0x0c0d0e0f]]

/-- A round-key file of the given rows, zeros above them. -/
def fileOf (rows : List RoundKey) : RoundKeys := Vector.ofFn fun r => rows.getD r.val (Vector.replicate 4 0)

/-- With V10's key expanded. -/
def keyed : State := { State.reset with keyValid := true, nr := 10, ek := fileOf v10Ek, dk := fileOf v10Dk }

/-- With V10's key expanded and V1's plaintext at 0. -/
def keyedBlock : State := { keyed with len := 16, dmem := memoryAt 0 plain }

/-- With V10's key expanded and V40's counter. -/
def keyedStream : State := { keyed with ctr := counterOf [0, 0, 0, 1], ctrValid := true, len := 1 }

/-- Under FAULT, with V10's key and the last counter value that can make a block. -/
def lastBlock : State :=
  { keyedStream with params := (resetUnder .fault).params, ctr := counterOf [255, 255, 255, 254] }

/-! ## Tables (R138 and the entries R132, R133 name) -/

theorem test_tables_check_values :
    t1 0x53 = 0xc1eded2c ∧ t2 0x01 = 0x84f87c7c ∧ t3 0x02 = 0x7799ee77 ∧ t4 0xff = 0x16163a2c
      ∧ t5 0x53 = 0x4de6bd46 ∧ t6 0x00 = 0x5051f4a7 ∧ t7 0x02 = 0xa4c31a17 ∧ t8 0xff = 0xb85742d0
      ∧ u1 0x53 = 0x5ffdaa5b ∧ u2 0x01 = 0x0b0e090d ∧ u3 0xff = 0x97a38d46 ∧ u4 0x02 = 0x121a161c := by decide +kernel

theorem test_sbox_and_rcon :
    sbox 0x00 = 0x63 ∧ sbox 0x53 = 0xed ∧ invSbox 0x00 = 0x52 ∧ invSbox 0x63 = 0x00 ∧ rcon 9 = 0x1b ∧ rcon 10 = 0x36 := by
  decide +kernel

/-! ## KEY_EXPAND -/

/-- V10. -/
theorem test_keyExpand_v10 :
    (next? (exec (.keyExpand 16) withKey)).map (fun t =>
      ((List.range 11).map (keyRow t.ek), (List.range 11).map (keyRow t.dk), t.nr, t.keyValid, t.err))
      = some (v10Ek, v10Dk, 10, true, .success) := by decide +kernel

/-- V11, V12, V13, V17. -/
theorem test_keyExpand_lengths :
    [0, 8, 20, 33, 63].map (fun n => (next? (exec (.keyExpand n) keyed)).map fun t => (t.err, t.sticky, t.nr))
      = [some (.keyMissing, true, 10), some (.keySizeInvalid, true, 10), some (.keySizeInvalid, true, 10),
         some (.keySizeInvalid, true, 10), some (.keySizeInvalid, true, 10)] := by decide +kernel

/-! ## BLOCK_ENC, BLOCK_DEC -/

/-- V1. -/
theorem test_blockEnc_v1 :
    (next? (exec .blockEnc keyedBlock)).map (fun t => (readAt t 0 16, t.err)) = some (cipher, .success) := by
  decide +kernel

/-- V9: the last legal address, the first illegal one, and one where a 32-bit sum would wrap. -/
theorem test_blockEnc_range :
    ([4080, 4081, 0xFFFFFFF8] : List Word).map (fun a => (next? (exec .blockEnc { keyedBlock with addr := a })).map (·.err))
      = [some .success, some .rangeInvalid, some .rangeInvalid] := by decide +kernel

/-- V2. -/
theorem test_blockDec_v2 :
    (next? (exec .blockDec { keyed with len := 16, dmem := memoryAt 0 cipher })).map (fun t => readAt t 0 16)
      = some plain := by decide +kernel

/-- V9: LEN = 0 is a wrong block length, and a missing key comes first. -/
theorem test_blockDec_checks :
    (next? (exec .blockDec keyed)).map (·.err) = some .blockLengthInvalid
      ∧ (next? (exec .blockDec State.reset)).map (·.err) = some .keyMissing := by decide +kernel

/-! ## The counter -/

/-- V20. -/
theorem test_ctrLoad_v20 :
    (next? (exec (.ctrLoad 12) { State.reset with nonce := #v[0x00010203, 0x04050607, 0x08090a0b], seedLo := 1 })).map
      (fun t => (blockNumbers t.ctr, t.ctrValid, statusWord t))
      = some ([0, 1, 2, 3, 4, 5, 6, 7, 8, 9, 10, 11, 0, 0, 0, 1], true, 0x00001020) := by decide +kernel

/-- V23, V24: the nonce length is checked before the seed. -/
theorem test_ctrLoad_checks :
    (next? (exec (.ctrLoad 11) { State.reset with seedHi := 1 })).map (·.err) = some .nonceSizeInvalid
      ∧ (next? (exec (.ctrLoad 12) { State.reset with seedHi := 1 })).map (·.err) = some .counterValueInvalid := by
  decide +kernel

/-- V25. -/
theorem test_ctrSetval_v25 :
    (next? (exec .ctrSetval { keyedStream with ctr := counterOf [0, 0, 0, 7], seedLo := 0x100 })).map
      (fun t => blockNumbers t.ctr) = some [0, 1, 2, 3, 4, 5, 6, 7, 8, 9, 10, 11, 0, 0, 1, 0] := by decide +kernel

/-- V25: a missing counter comes before a bad seed. -/
theorem test_ctrSetval_missing :
    (next? (exec .ctrSetval { State.reset with seedHi := 1 })).map (·.err) = some .counterMissing := by decide +kernel

/-- V30. -/
theorem test_ctrSetbytes_v30 :
    (next? (exec .ctrSetbytes { State.reset with
        addr := 0x40, len := 16,
        dmem := memoryAt 0x40 [0xf0, 0xf1, 0xf2, 0xf3, 0xf4, 0xf5, 0xf6, 0xf7, 0xf8, 0xf9, 0xfa, 0xfb, 0xfc, 0xfd, 0xfe, 0xff] })).map
      (fun t => (suffix t.ctr, blockWord t.ctr 0, t.ctrValid)) = some (0xfcfdfeff, 0xf0f1f2f3, true) := by decide +kernel

/-- V30: the length is checked first, then the range. -/
theorem test_ctrSetbytes_checks :
    (next? (exec .ctrSetbytes { State.reset with addr := 4081, len := 15 })).map (·.err) = some .counterValueInvalid
      ∧ (next? (exec .ctrSetbytes { State.reset with addr := 4081, len := 16 })).map (·.err) = some .rangeInvalid := by
  decide +kernel

/-- V26 at N ∥ ffffffff with byte 11 at ff, under the three policies. -/
theorem test_ctrInc_v26 :
    [CtrOverflow.carry128, .suffix32, .fault].map (fun o =>
      (next? (exec .ctrInc { resetUnder o with
        ctrValid := true, ctr := blockOf [0, 1, 2, 3, 4, 5, 6, 7, 8, 9, 10, 255, 255, 255, 255, 255] })).map
        fun t => (blockNumbers t.ctr, t.err))
      = [some ([0, 1, 2, 3, 4, 5, 6, 7, 8, 9, 11, 0, 0, 0, 0, 0], .success),
         some ([0, 1, 2, 3, 4, 5, 6, 7, 8, 9, 10, 255, 0, 0, 0, 0], .success),
         some ([0, 1, 2, 3, 4, 5, 6, 7, 8, 9, 10, 255, 255, 255, 255, 255], .counterExhausted)] := by decide +kernel

/-- V21. -/
theorem test_ctrInc_v21 :
    (next? (exec .ctrInc { keyedStream with ctr := counterOf [0, 0, 0, 0xff] })).map (fun t => blockNumbers t.ctr)
      = some [0, 1, 2, 3, 4, 5, 6, 7, 8, 9, 10, 11, 0, 0, 1, 0] := by decide +kernel

/-- V31. -/
theorem test_ctrClone_v31 :
    (next? (exec .ctrClone { keyedStream with addr := 0x80 })).map (fun t => (readAt t 0x80 16, readAt t 0x7F 1))
      = some ([0, 1, 2, 3, 4, 5, 6, 7, 8, 9, 10, 11, 0, 0, 0, 1], [0]) := by decide +kernel

/-- V31: errors. -/
theorem test_ctrClone_checks :
    (next? (exec .ctrClone State.reset)).map (·.err) = some .counterMissing
      ∧ (next? (exec .ctrClone { keyedStream with addr := 4081 })).map (·.err) = some .rangeInvalid := by decide +kernel

/-! ## The stream engine -/

/-- V48. -/
theorem test_streamReset_v48 :
    (next? (exec .streamReset { keyedStream with cursor := 1, ctr := counterOf [0, 0, 0, 4] })).map
      (fun t => (t.cursor, suffix t.ctr, t.err)) = some (16, 4, .success) := by decide +kernel

/-- V42 for 17 bytes 00, 01, ..., 10. -/
theorem test_streamApply_v42 :
    (next? (exec .streamApply { keyedStream with len := 17, dmem := memoryAt 0 (List.range 17) })).map
      (fun t => (readAt t 0 17, t.cursor, suffix t.ctr))
      = some ([0x43, 0x5a, 0x99, 0xa2, 0x29, 0x70, 0xa2, 0xb9, 0x82, 0x9e, 0x74, 0xa8, 0xc1, 0x0c, 0x16, 0x9f, 0x83], 1, 3) := by
  decide +kernel

/-- V47, step 1: under FAULT the command is refused whole. -/
theorem test_streamApply_v47 :
    (next? (exec .streamApply { keyedStream with
        params := (resetUnder .fault).params, ctr := counterOf [255, 255, 255, 254], len := 17 })).map
      (fun t => (t.err, t.dmem, t.cursor, suffix t.ctr)) = some (.counterExhausted, [], 16, 0xfffffffe) := by decide +kernel

/-! ## Port, status and reset -/

/-- V70. -/
theorem test_status_after_reset :
    statusWord State.reset = 0x00001000 ∧ statusWord (resetUnder .suffix32) = 0x00101000
      ∧ statusWord (resetUnder .fault) = 0x00201000 := by decide

/-- V72: STATUS after BLOCK_ENC with LEN = 0, from V10's end. -/
theorem test_status_v72 :
    (next? (exec .blockEnc keyed)).map statusWord = some 0x000A1055 := by decide +kernel

/-- V71, both ways. -/
theorem test_window_v71 :
    (next? (step { State.reset with host := [.write 32 0x1000 0x00112233] })).map (fun t => readAt t 0 4)
      = some [0x00, 0x11, 0x22, 0x33]
    ∧ (next? (step { State.reset with dmem := memoryAt 0 cipher, host := [.read 32 0x1000] })).map (·.readData)
      = some (some 0x69c4e0d8) := by decide +kernel

/-- V1's end state read by `rdbytes 0, 16` (R111, V71's packing): the bytes of V1's ciphertext. -/
theorem test_rdbytes_v1 :
    (rdbytes 0 16 { State.reset with dmem := memoryAt 0 cipher }).map BitVec.toNat = cipher := by decide +kernel

/-- R75. -/
theorem test_access_refused :
    step { State.reset with host := [.read 8 0x004] } = .refused (.accessWidth 8)
      ∧ step { State.reset with host := [.write 32 0x009 0] } = .refused (.accessAlignment 9) := ⟨rfl, rfl⟩

/-- P4, line 6: an illegal word from the fetch interface. -/
theorem test_step_illegal_word :
    (next? (step (State.reset.withFetchWord 32 0x0000000B))).map statusWord = some 0x00001047 := by decide +kernel

/-- A fetched word runs as the very next step. -/
theorem test_step_fetched_word :
    step (State.reset.withFetchWord 32 0x00000009)
      = exec .streamReset { State.reset with epoch := 1 } := rfl

/-! ## Witnesses: for each statement with hypotheses, states and operands that meet them all -/

/-- An event list before the state after reset. -/
def withHost (l : List HostEvent) : State := { State.reset with host := l }

theorem test_witness_DecodeInvertsEncode :
    (Instr.keyExpand 0).wellFormed = true ∧ (Instr.keyExpand 63).wellFormed = true
      ∧ Instr.streamApply.wellFormed = true := by decide

theorem test_witness_EncodeInvertsDecode :
    decode 0x00003F01 = .command (.keyExpand 63) ∧ decode 0x00000004 = .command (.ctrLoad 0) := by decide

/-- The second clause, with a word of each kind of R104. -/
theorem test_witness_IllegalWordsRaiseCommandInvalid :
    (withHost [issue 0x0000000B]).host = issue 0x0000000B :: [] ∧ decode 0x0000000B = .illegal .unknownOpcode
      ∧ (withHost [issue 0x00004000]).host = issue 0x00004000 :: [] ∧ decode 0x00004000 = .illegal .reservedBits
      ∧ (withHost [issue 0x00003F05]).host = issue 0x00003F05 :: [] ∧ decode 0x00003F05 = .illegal .immediateNotZero := by
  decide

theorem test_witness_StepRunsDecodedCommand :
    (withHost [issue 0x00001001, .reset]).host = issue 0x00001001 :: [.reset]
      ∧ decode 0x00001001 = .command (.keyExpand 16) := by decide

/-- The last registers of the map and the last window word, at its boundary. -/
theorem test_witness_RegistersAnswerAtTheirOffsets :
    portOffset (.dmem 4092) = some 0x1FFC ∧ (∀ a, PortReg.dmem 4092 = .dmem a → a + 4 ≤ 4096)
      ∧ portOffset .cmd = some 0 ∧ (∀ a, PortReg.cmd = .dmem a → a + 4 ≤ 16)
      ∧ portOffset (.dk 14 3) = some 0x2EC ∧ (∀ a, PortReg.dk 14 3 = .dmem a → a + 4 ≤ 16) :=
  ⟨rfl, fun _ h => PortReg.dmem.inj h ▸ (by decide : 4092 + 4 ≤ 4096), rfl, fun _ h => PortReg.noConfusion h, rfl,
    fun _ h => PortReg.noConfusion h⟩

theorem test_witness_FailingCommandChangesOnlyErrAndSticky :
    ∃ t, runCommand 0x00000007 State.reset = .next t ∧ t.err ≠ .success := ⟨_, rfl, by decide⟩

/-- One witness for each clause. -/
theorem test_witness_StickyRecordsFailuresUntilReset :
    (∃ t, runCommand 0x00000009 State.reset = .next t ∧ t.err = .success)
      ∧ (∃ t, step (withHost [issue 0]) = .next t ∧ (withHost [issue 0]).sticky = false ∧ t.sticky = true)
      ∧ ∃ t, step { withHost [.reset] with sticky := true } = .next t ∧ t.sticky = false :=
  ⟨⟨_, rfl, rfl⟩, ⟨_, rfl, rfl, rfl⟩, ⟨_, rfl, rfl⟩⟩

theorem test_witness_CommandsReportTheFirstFailingCheck : ∃ why, decode 0x000000FF = .illegal why := ⟨.unknownOpcode, rfl⟩

/-- An access inside, and the two outside. -/
theorem test_witness_InterfaceAccessesAreAnswered :
    (withHost [.read 32 0xFFFC]).host = .read 32 0xFFFC :: [] ∧ inInterface (.read 32 0xFFFC) = true
      ∧ (withHost [.read 16 0]).host = .read 16 0 :: [] ∧ 16 ≠ 32
      ∧ (withHost [.write 32 2 0]).host = .write 32 2 0 :: [] ∧ 2 % 4 ≠ 0 := by decide

theorem test_witness_KeyExpandBuildsTheSchedule :
    (16 = 16 ∨ 16 = 24 ∨ 16 = 32) ∧ (24 = 16 ∨ 24 = 24 ∨ 24 = 32) ∧ (32 = 16 ∨ 32 = 24 ∨ 32 = 32) := by decide

/-- Every length, and a middle row. -/
theorem test_witness_DecryptionKeysAreReversedAndMixed :
    (∃ t, exec (.keyExpand 16) withKey = .next t ∧ t.err = .success)
      ∧ (∃ t, exec (.keyExpand 24) withKey = .next t ∧ t.err = .success)
      ∧ (∃ t, exec (.keyExpand 32) withKey = .next t ∧ t.err = .success) ∧ 1 ≤ 9 ∧ 9 < 16 / 4 + 6 :=
  ⟨⟨_, rfl, rfl⟩, ⟨_, rfl, rfl⟩, ⟨_, rfl, rfl⟩, by decide, by decide⟩

/-- The last legal address. -/
theorem test_witness_BlockEncReplacesTheBlock :
    keyedBlock.keyValid = true ∧ { keyedBlock with addr := 4080 }.len.toNat = 16
      ∧ { keyedBlock with addr := 4080 }.addr.toNat + 16 ≤ keyedBlock.params.dmemBytes := by decide +kernel

theorem test_witness_BlockDecReplacesTheBlock :
    keyedBlock.keyValid = true ∧ keyedBlock.len.toNat = 16
      ∧ keyedBlock.addr.toNat + 16 ≤ keyedBlock.params.dmemBytes := by decide +kernel

theorem test_witness_TransformFollowsTheRoundRule : 1 ≤ 14 ∧ 14 ≤ 14 ∧ 1 ≤ 13 ∧ 13 < 14 := by decide

theorem test_witness_DecryptionInvertsEncryption :
    ∃ t, exec (.keyExpand 24) withKey = .next t ∧ t.err = .success := ⟨_, rfl, rfl⟩

theorem test_witness_BlockDecUndoesBlockEnc :
    keyedBlock.inv = true ∧ keysMatch keyedBlock = true
      ∧ (next? (exec .blockEnc keyedBlock)).map (·.err) = some .success := by decide +kernel

/-- Both clauses: a zero state, every byte being S or SI of 0. -/
theorem test_witness_TableRoundsAreMixColumns :
    0x63 = sbox (byteOf (Vector.replicate 4 (0 : Word))[0] 3) ∧ 0x52 = invSbox (byteOf (Vector.replicate 4 (0 : Word))[0] 3) := by
  decide +kernel

/-- Zero, and R132's own example 53, whose field inverse is ca. -/
theorem test_witness_SboxIsAffineMapOfFieldInverse :
    (((0 : Byte) = 0 → (0 : Byte) = 0) ∧ ((0 : Byte) ≠ 0 → gmul 0 0 = 1))
      ∧ (((0x53 : Byte) = 0 → (0xca : Byte) = 0) ∧ ((0x53 : Byte) ≠ 0 → gmul 0x53 0xca = 1)) := by decide +kernel

/-- The largest valid seed. -/
theorem test_witness_CtrLoadSetsNonceAndSeed :
    { State.reset with seedLo := 0xFFFFFFFF }.seedHi.toNat * 2 ^ 32
      + { State.reset with seedLo := 0xFFFFFFFF }.seedLo.toNat < 2 ^ 32 := by decide

theorem test_witness_CtrSetvalReplacesTheSuffix :
    { keyedStream with seedLo := 0xFFFFFFFF }.ctrValid = true
      ∧ { keyedStream with seedLo := 0xFFFFFFFF }.seedHi.toNat * 2 ^ 32
        + { keyedStream with seedLo := 0xFFFFFFFF }.seedLo.toNat < 2 ^ 32 := by decide +kernel

theorem test_witness_CtrSetbytesLoadsTheBlock :
    { keyedBlock with addr := 4080 }.len.toNat = 16
      ∧ { keyedBlock with addr := 4080 }.addr.toNat + 16 ≤ keyedBlock.params.dmemBytes := by decide +kernel

/-- CARRY128 at the maximum, and FAULT at the last suffix it increments. -/
theorem test_witness_CtrIncAddsOne :
    { keyedStream with ctr := counterOf [255, 255, 255, 255] }.ctrValid = true
      ∧ ¬({ keyedStream with ctr := counterOf [255, 255, 255, 255] }.params.ctrOverflow = .fault
        ∧ (suffix { keyedStream with ctr := counterOf [255, 255, 255, 255] }.ctr).toNat = 2 ^ 32 - 1)
      ∧ ¬((resetUnder .fault).params.ctrOverflow = .fault
        ∧ (suffix { resetUnder .fault with ctr := counterOf [255, 255, 255, 254] }.ctr).toNat = 2 ^ 32 - 1) := by
  decide +kernel

/-- Both clauses: just below the maximum, and at it, with byte 11 at 0b and with every byte at ff. -/
theorem test_witness_IncrementPoliciesDifferOnlyAtMaximum :
    suffix (counterOf [255, 255, 255, 254]) ≠ 0xFFFFFFFF ∧ suffix (counterOf [255, 255, 255, 255]) = 0xFFFFFFFF
      ∧ suffix (Vector.replicate 16 0xFF) = 0xFFFFFFFF := by decide +kernel

theorem test_witness_CtrCloneStoresTheCounter :
    { keyedStream with addr := 4080 }.ctrValid = true
      ∧ { keyedStream with addr := 4080 }.addr.toNat + 16 ≤ keyedStream.params.dmemBytes := by decide +kernel

/-- The clone's own end state, with LEN at 16, is a later state u. -/
theorem test_witness_SetbytesRestoresTheClone :
    ∃ t, exec .ctrClone { keyedStream with len := 16 } = .next t ∧ t.err = .success
      ∧ t.addr = keyedStream.addr ∧ t.len.toNat = 16 ∧ t.params = keyedStream.params
      ∧ ∀ j, j < 16 → Memory.read t.dmem (keyedStream.addr.toNat + j) = Memory.read t.dmem (keyedStream.addr.toNat + j) :=
  ⟨_, rfl, rfl, rfl, rfl, rfl, fun _ _ => rfl⟩

/-- Under FAULT at the last suffix it can use: one block (k = 1), and, with one byte of REM left, none (k = 0). -/
theorem test_witness_StreamApplyXorsTheKeystream :
    lastBlock.keyValid = true ∧ lastBlock.ctrValid = true ∧ 1 ≤ lastBlock.len.toNat
      ∧ lastBlock.addr.toNat + lastBlock.len.toNat ≤ lastBlock.params.dmemBytes
      ∧ 1 = (lastBlock.cursor.val + lastBlock.len.toNat - 16 + 15) / 16
      ∧ (lastBlock.params.ctrOverflow = .fault → 1 ≤ 1 → (suffix lastBlock.ctr).toNat + 1 < 2 ^ 32)
      ∧ 0 = ({ lastBlock with cursor := 15 }.cursor.val + lastBlock.len.toNat - 16 + 15) / 16 := by decide +kernel

/-- The message of 2 bytes in two pieces of 1. -/
theorem test_witness_StreamApplySplitsAnywhere :
    { keyedStream with len := 2 }.inv = true
      ∧ (next? (exec .streamApply { keyedStream with len := 2 })).map (·.err) = some .success
      ∧ 1 ≤ (1 : Word).toNat ∧ (2 : Word).toNat = (1 : Word).toNat + (1 : Word).toNat := by decide +kernel

theorem test_witness_StreamApplyIsSelfInverse :
    keyedStream.inv = true ∧ (next? (exec .streamApply keyedStream)).map (·.err) = some .success := by decide +kernel

/-- Under FAULT, the longest message from 2^32 - 2, in the last 16 bytes of DMEM. -/
theorem test_witness_EncryptSequenceXorsTheKeystream :
    lastBlock.keyValid = true ∧ 1 ≤ (16 : Word).toNat
      ∧ (4080 : Word).toNat + (16 : Word).toNat ≤ lastBlock.params.dmemBytes ∧ (bytes (List.range 12)).length = 12
      ∧ 2 ^ 32 - 2 < 2 ^ 32 ∧ counterSuffices lastBlock.params.ctrOverflow (2 ^ 32 - 2) (16 : Word).toNat :=
  ⟨by decide +kernel, by decide, by decide +kernel, by decide, by decide, fun _ => by decide⟩

theorem test_witness_DecryptSequenceRestoresThePlaintext :
    keyed.keyValid = true ∧ 1 ≤ (1 : Word).toNat ∧ (0 : Word).toNat + (1 : Word).toNat ≤ keyed.params.dmemBytes
      ∧ (bytes (List.range 12)).length = 12 ∧ 1 < 2 ^ 32
      ∧ counterSuffices keyed.params.ctrOverflow 1 (1 : Word).toNat :=
  ⟨by decide +kernel, by decide, by decide +kernel, by decide, by decide, fun _ => by decide⟩

/-- Two states that differ in the counter and in a byte outside the message of 8. -/
theorem test_witness_EncryptSequenceIsDeterministic :
    keyedStream.keyValid = true ∧ 1 ≤ (8 : Word).toNat
      ∧ (0 : Word).toNat + (8 : Word).toNat ≤ keyedStream.params.dmemBytes ∧ (bytes (List.range 12)).length = 12
      ∧ 1 < 2 ^ 32 ∧ counterSuffices keyedStream.params.ctrOverflow 1 (8 : Word).toNat
      ∧ { keyed with dmem := memoryAt 8 [1] }.keyValid = true
      ∧ { keyed with dmem := memoryAt 8 [1] }.params = keyedStream.params
      ∧ { keyed with dmem := memoryAt 8 [1] }.nr = keyedStream.nr
      ∧ { keyed with dmem := memoryAt 8 [1] }.ek = keyedStream.ek
      ∧ ∀ i, i < (8 : Word).toNat →
          Memory.read { keyed with dmem := memoryAt 8 [1] }.dmem ((0 : Word).toNat + i)
            = Memory.read keyedStream.dmem ((0 : Word).toNat + i) :=
  ⟨by decide +kernel, by decide, by decide +kernel, by decide, by decide, fun _ => by decide, by decide +kernel,
    by decide +kernel, by decide +kernel, by decide +kernel, by decide +kernel⟩

theorem test_witness_CommandsNeverWriteOperands : ∃ t, runCommand 0x00000C04 withKey = .next t := ⟨_, rfl⟩

theorem test_witness_OnlyKeyExpandWritesRoundKeys :
    ∃ t, step (withHost [issue 0x00001001]) = .next t ∧ t.keyValid ≠ (withHost [issue 0x00001001]).keyValid :=
  ⟨_, rfl, by decide⟩

theorem test_witness_OnlyStreamCommandsWriteTheStream :
    ∃ t, step { withHost [issue 0x00000009] with cursor := 5 } = .next t ∧ t.cursor ≠ 5 := ⟨_, rfl, by decide⟩

theorem test_witness_OnlyCounterCommandsWriteTheCounter :
    ∃ t, step (withHost [issue 0x00000C04]) = .next t ∧ t.ctrValid ≠ (withHost [issue 0x00000C04]).ctrValid :=
  ⟨_, rfl, by decide⟩

/-- A window write and a clone. -/
theorem test_witness_DmemChangesOnlyWhereWritten :
    (next? (step (withHost [.write 32 0x1000 1]))).map (fun t => Memory.read t.dmem 3 ≠ Memory.read State.reset.dmem 3)
        = some True
      ∧ (next? (exec .ctrClone keyedStream)).map (fun t => decide (Memory.read t.dmem 15 ≠ Memory.read keyedStream.dmem 15))
        = some true := by
  refine ⟨?_, by decide +kernel⟩
  have h : (next? (step (withHost [.write 32 0x1000 1]))).map (fun t => decide (Memory.read t.dmem 3 ≠ Memory.read State.reset.dmem 3))
      = some true := by decide +kernel
  revert h
  cases next? (step (withHost [.write 32 0x1000 1])) <;> simp

/-- A CARRY128 increment into byte 11. -/
theorem test_witness_NoncePartChangesOnlyByLoadOrCarry :
    (next? (exec .ctrInc { keyedStream with ctr := counterOf [255, 255, 255, 255] })).map
      (fun t => decide (t.ctr[11] ≠ (counterOf [255, 255, 255, 255])[11])) = some true := by decide +kernel

theorem test_witness_ValidFlagsStayUntilReset :
    ∃ t, step { keyedStream with host := [issue 0], sticky := true } = .next t
      ∧ ∀ rest, [issue 0] ≠ HostEvent.reset :: rest := by
  refine ⟨_, rfl, ?_⟩
  simp [issue]

/-- The second clause: keys that differ beyond the first 16 bytes. -/
theorem test_witness_KeyAndNonceAreReadOnlyByTheirCommands :
    (∀ n, Instr.ctrInc ≠ .keyExpand n) ∧ (∀ n, Instr.ctrInc ≠ .ctrLoad n)
      ∧ ∀ j : Fin 8, 4 * j.val < 16 → (withKey.key.set 4 1)[j] = withKey.key[j] :=
  ⟨fun _ h => Instr.noConfusion h, fun _ h => Instr.noConfusion h, by decide +kernel⟩

/-- Both clauses: a read of STATUS, and the two reads of a counter word that is not valid. -/
theorem test_witness_ReadsHaveNoSideEffects :
    (withHost [.read 32 0x004]).host = .read 32 0x004 :: [] ∧ 0x004 % 4 = 0
      ∧ (withHost [.read 32 0x030, .read 32 0x030]).host = .read 32 0x030 :: [.read 32 0x030]
      ∧ portReg 4096 0x030 ≠ .cmd ∧ portReg 4096 0x030 ≠ .reserved ∧ portReg 4096 0x030 ≠ .unmapped := by decide

theorem test_witness_StatusReadsItsFields : (withHost [.read 32 0x004]).host = .read 32 0x004 :: [] := rfl

theorem test_witness_InfoReadsDmemBytes :
    (withHost [.read 32 0x018]).host = .read 32 0x018 :: [] ∧ State.reset.params.dmemBytes ≤ 2 ^ 20
      ∧ (withHost [.write 32 0x018 5]).host = .write 32 0x018 5 :: [] ∧ ∃ t, step State.reset = .next t :=
  ⟨rfl, by decide, rfl, ⟨_, rfl⟩⟩

theorem test_witness_CounterWordsReadTheCounter :
    keyedStream.ctrValid = true
      ∧ { keyedStream with host := [.read 32 0x03C] }.host = .read 32 (0x030 + 4 * (3 : Fin 4).val) :: [] := by decide +kernel

/-- Row NR, the last one. -/
theorem test_witness_RoundKeyWordsReadTheKeys :
    keyed.keyValid = true ∧ (10 : Fin 15).val ≤ keyed.nr.toNat
      ∧ { keyed with host := [.read 32 0x1AC] }.host = .read 32 (0x100 + 16 * (10 : Fin 15).val + 4 * (3 : Fin 4).val) :: []
      ∧ { keyed with host := [.read 32 0x2AC] }.host = .read 32 (0x200 + 16 * (10 : Fin 15).val + 4 * (3 : Fin 4).val) :: [] := by
  decide +kernel

/-- The first and the last window word, read and written. -/
theorem test_witness_DmemWindowIsBigEndian :
    0 % 4 = 0 ∧ 0 + 4 ≤ State.reset.params.dmemBytes ∧ 4092 % 4 = 0 ∧ 4092 + 4 ≤ State.reset.params.dmemBytes
      ∧ (withHost [.read 32 0x1FFC]).host = .read 32 (0x1000 + 4092) :: []
      ∧ (withHost [.write 32 0x1000 7]).host = .write 32 (0x1000 + 0) 7 :: [] := by decide

/-- Each end of each range. -/
theorem test_witness_OperandWritesReadBack :
    ∀ off ∈ [0x008, 0x014, 0x020, 0x028, 0x040, 0x05C],
      off % 4 = 0
        ∧ ((0x008 ≤ off ∧ off ≤ 0x014) ∨ (0x020 ≤ off ∧ off ≤ 0x028) ∨ (0x040 ≤ off ∧ off ≤ 0x05C))
        ∧ (withHost [.write 32 off 9, .read 32 off]).host = .write 32 off 9 :: .read 32 off :: [] := by decide

/-- Each kind of offset, at the ends of its range. -/
theorem test_witness_IgnoredWritesChangeNothing :
    ∀ off ∈ [0x004, 0x018, 0x01C, 0x02C, 0x030, 0x03C, 0x060, 0xFFC, 0x2000],
      off % 4 = 0
        ∧ (off = 0x004 ∨ off = 0x018 ∨ off = 0x01C ∨ off = 0x02C ∨ (0x030 ≤ off ∧ off < 0x040)
          ∨ (0x060 ≤ off ∧ off < 0x1000) ∨ 0x1000 + State.reset.params.dmemBytes ≤ off)
        ∧ (withHost [.write 32 off 9]).host = .write 32 off 9 :: [] := by decide

theorem test_witness_IdleCoreHoldsItsState : keyedStream.host = [] := rfl

theorem test_witness_ResetGivesTheResetValues : { keyedStream with host := [.reset] }.host = .reset :: [] := rfl

theorem test_witness_StepKeepsTheInvariant :
    { keyedBlock with host := [issue 2] }.inv = true
      ∧ (next? (step { keyedBlock with host := [issue 2] })).isSome = true := by decide +kernel

theorem test_witness_StepKeepsTheKeysMatched :
    keysMatch { keyedBlock with host := [issue 2] } = true
      ∧ (next? (step { keyedBlock with host := [issue 2] })).isSome = true := by decide +kernel

/-- Two states after reset that differ in all that R50 leaves unspecified. -/
theorem test_witness_UnspecifiedContentNeverShows :
    specifiedAgree State.reset { State.reset with
      ek := Vector.replicate 15 (Vector.replicate 4 1), dk := Vector.replicate 15 (Vector.replicate 4 2)
      ctr := Vector.replicate 16 3, remainder := Vector.replicate 16 4 } :=
  ⟨rfl, fun h => Bool.noConfusion h, fun h => Bool.noConfusion h, fun h => absurd h (by decide)⟩

/-- A string of one word at the last window word, and the empty string. -/
theorem test_witness_WrbytesStoresTheString :
    4092 % 4 = 0 ∧ (bytes [1, 2, 3, 4]).length % 4 = 0
      ∧ 4092 + (bytes [1, 2, 3, 4]).length ≤ State.reset.params.dmemBytes
      ∧ 0 % 4 = 0 ∧ (bytes []).length % 4 = 0 ∧ 0 + (bytes []).length ≤ State.reset.params.dmemBytes := by decide

/-- All of DMEM, and the last window word. -/
theorem test_witness_RdbytesReturnsTheBytes :
    0 % 4 = 0 ∧ 4096 % 4 = 0 ∧ 0 + 4096 ≤ State.reset.params.dmemBytes
      ∧ 4092 % 4 = 0 ∧ 4 % 4 = 0 ∧ 4092 + 4 ≤ State.reset.params.dmemBytes := by decide

end Sys2Proof.Tests
end

section
/-! PROOF. The invariant of the machine is kept by every step: a law per way the state changes (an error, a command's
own effect, a register write, a reset), put together by what a step can do. -/

namespace Sys2Proof.Machine

/-! ## The invariant's parts -/

theorem State.inv_iff (s : State) :
    s.inv = true ↔ paramsLegal s.params = true ∧ keyStateLegal s = true ∧ errorIsSticky s = true
      ∧ dmemLegal s = true := by
  simp only [State.inv, Bool.and_eq_true, and_assoc]

theorem keyStateLegal_iff (s : State) :
    keyStateLegal s = true ↔
      (s.keyValid = true → s.nr = 10 ∨ s.nr = 12 ∨ s.nr = 14) ∧ (s.keyValid = false → s.nr = 0) := by
  unfold keyStateLegal
  cases s.keyValid <;> simp

theorem errorIsSticky_iff (s : State) :
    errorIsSticky s = true ↔ s.err = .success ∨ s.sticky = true := by
  simp [errorIsSticky]

theorem dmemLegal_iff (s : State) :
    dmemLegal s = true ↔ Memory.wf s.dmem = true ∧ Memory.below s.dmem s.params.dmemBytes = true := by
  simp only [dmemLegal, Bool.and_eq_true]

/-- Legal parameters reset the data memory to a legal content. -/
theorem dmemInit_of_paramsLegal {p : Params} (h : paramsLegal p = true) :
    Memory.wf p.dmemInit = true ∧ Memory.below p.dmemInit p.dmemBytes = true := by
  simp only [paramsLegal, Bool.and_eq_true] at h
  obtain ⟨⟨_, hwf⟩, hbelow⟩ := h
  exact ⟨hwf, hbelow⟩

/-! ## Updates the invariant does not see -/

@[simp] theorem State.takeEvent_inv (s : State) (rest : List HostEvent) : (s.takeEvent rest).inv = s.inv := rfl

@[simp] theorem State.nextEpoch_inv (s : State) : s.nextEpoch.inv = s.inv := rfl

@[simp] theorem hostRead_inv (off : Nat) (s : State) : (hostRead off s).inv = s.inv := rfl

/-! ## Commands -/

/-- An error sets STICKY and leaves the rest of the invariant's fields alone (R273). -/
theorem Raised.inv {s t : State} (h : Raised s t) (hs : s.inv = true) : t.inv = true := by
  obtain ⟨e, _, rfl⟩ := h
  obtain ⟨hparams, hkey, _, hdmem⟩ := (State.inv_iff s).1 hs
  exact (State.inv_iff _).2 ⟨hparams, hkey, (errorIsSticky_iff _).2 (.inr (State.raise_sticky s e)), hdmem⟩

/-- The three key lengths give the three legal values of NR (R161). -/
theorem roundCount_legal {n : Nat} (h : n = 16 ∨ n = 24 ∨ n = 32) :
    BitVec.ofNat 4 (roundCount (n / 4)) = 10 ∨ BitVec.ofNat 4 (roundCount (n / 4)) = 12
      ∨ BitVec.ofNat 4 (roundCount (n / 4)) = 14 := by
  rcases h with rfl | rfl | rfl
  · exact .inl rfl
  · exact .inr (.inl rfl)
  · exact .inr (.inr rfl)

/-- A command's effect keeps NR in step with KEY_VALID: KEY_EXPAND sets both, no other command writes them. -/
theorem effect_keyStateLegal {i : Instr} {s t : State} (h : Effect i s t) (hs : keyStateLegal s = true) :
    keyStateLegal t = true := by
  rw [keyStateLegal_iff] at hs ⊢
  rcases effect_keys h with ⟨n, rfl⟩ | ⟨hvalid, hnr, _, _⟩
  · obtain ⟨hn, rfl⟩ := h
    exact ⟨fun _ => roundCount_legal hn, fun hf => Bool.noConfusion hf⟩
  · rwa [hvalid, hnr]

theorem effect_inv {i : Instr} {s t : State} (h : Effect i s t) (hs : s.inv = true) : t.inv = true := by
  obtain ⟨hparams, hkey, _, hdmem⟩ := (State.inv_iff s).1 hs
  obtain ⟨hwf, hbelow⟩ := (dmemLegal_iff s).1 hdmem
  obtain ⟨eparams, _, _, _, _, _, _, herr, _⟩ := effect_frame h
  have hdmem' : dmemLegal t = true :=
    (dmemLegal_iff t).2 ⟨effect_wf h hwf, eparams ▸ effect_below h hbelow⟩
  exact (State.inv_iff t).2
    ⟨eparams ▸ hparams, effect_keyStateLegal h hkey, (errorIsSticky_iff t).2 (.inl herr), hdmem'⟩

theorem runCommand_inv {v : Word} {s t : State} (h : runCommand v s = .next t) (hs : s.inv = true) :
    t.inv = true := by
  rcases runCommand_effect h with hraised | ⟨i, _, heffect⟩
  · exact hraised.inv hs
  · exact effect_inv heffect hs

/-! ## Register writes and reset -/

/-- A register write leaves the data memory alone unless the register is a window word. -/
theorem writeReg_dmem_of_not_window {r : PortReg} (h : ∀ a, r ≠ .dmem a) (v : Word) (s : State) :
    (writeReg r v s).dmem = s.dmem := by
  cases r with
  | dmem a => exact absurd rfl (h a)
  | _ => rfl

/-- The port map names no window word that leaves the data memory, so a register write keeps it legal (R71). -/
theorem writeReg_portReg_dmemLegal (off : Nat) (v : Word) {s : State} (hs : dmemLegal s = true) :
    dmemLegal (writeReg (portReg s.params.dmemBytes off) v s) = true := by
  have eparams : (writeReg (portReg s.params.dmemBytes off) v s).params = s.params := (writeReg_fields _ v s).1
  rw [dmemLegal_iff] at hs ⊢
  rw [eparams]
  obtain ⟨hwf, hbelow⟩ := hs
  by_cases hwindow : ∃ a, portReg s.params.dmemBytes off = .dmem a
  · obtain ⟨a, ha⟩ := hwindow
    rw [ha]
    exact ⟨Memory.wf_writeWord hwf a v, Memory.below_writeWord hbelow (portReg_eq_dmem ha).2⟩
  · rw [writeReg_dmem_of_not_window (not_exists.1 hwindow)]
    exact ⟨hwf, hbelow⟩

theorem writeReg_portReg_inv (off : Nat) (v : Word) {s : State} (hs : s.inv = true) :
    (writeReg (portReg s.params.dmemBytes off) v s).inv = true := by
  obtain ⟨hparams, hkey, herror, hdmem⟩ := (State.inv_iff s).1 hs
  obtain ⟨eparams, eerr, esticky, evalid, enr, _⟩ := writeReg_fields (portReg s.params.dmemBytes off) v s
  refine (State.inv_iff _).2 ⟨by rwa [eparams], ?_, ?_, writeReg_portReg_dmemLegal off v hdmem⟩
  · rwa [keyStateLegal_iff, evalid, enr, ← keyStateLegal_iff]
  · rwa [errorIsSticky_iff, eerr, esticky, ← errorIsSticky_iff]

/-- The reset event keeps the parameters, whose DMEM_INIT is legal, and clears the key, ERR and STICKY (R50). -/
theorem platformReset_inv {s : State} (hs : s.inv = true) : (platformReset s).inv = true := by
  obtain ⟨hparams, _, _, _⟩ := (State.inv_iff s).1 hs
  exact (State.inv_iff _).2 ⟨hparams, rfl, rfl, (dmemLegal_iff _).2 (dmemInit_of_paramsLegal hparams)⟩

/-! ## Every step -/

/-- Settles O54, by the cases of what a step can do. -/
theorem stepKeepsTheInvariant : Obligations.StepKeepsTheInvariant := by
  intro s t hs hstep
  rcases step_cases hstep with ⟨_, rfl⟩ | ⟨off, rest, _, _, rfl⟩ | ⟨_, _, rest, _, _, _, hrun⟩
    | ⟨off, v, rest, _, _, _, rfl⟩ | ⟨rest, _, rfl⟩
  · exact hs
  · simpa using hs
  · exact runCommand_inv hrun (by simpa using hs)
  · exact writeReg_portReg_inv (s := (s.takeEvent rest).nextEpoch) off v (by simpa using hs)
  · exact platformReset_inv (by simpa using hs)

end Sys2Proof.Machine
end

section
/-! PROOF. Which steps write the key, counter and stream state, said once (R43, R44, R46), and that every step keeps DK
the image of EK (R164). -/

namespace Sys2Proof.Machine

/-! ## The key, counter and stream state across a step -/

/-- The key, counter and stream state of t is that of s. -/
def StoresKept (s t : State) : Prop :=
  t.keyValid = s.keyValid ∧ t.nr = s.nr ∧ t.ek = s.ek ∧ t.dk = s.dk ∧ t.ctrValid = s.ctrValid ∧ t.ctr = s.ctr
    ∧ t.remainder = s.remainder ∧ t.cursor = s.cursor

theorem Raised.storesKept {s t : State} (h : Raised s t) : StoresKept s t := by
  obtain ⟨e, _, rfl⟩ := h
  simp [StoresKept]

theorem writeReg_storesKept (r : PortReg) (v : Word) (s : State) : StoresKept s (writeReg r v s) := by
  obtain ⟨_, _, _, hkv, hnr, hek, hdk, hcv, hctr, hrem, hcur, _⟩ := writeReg_fields r v s
  exact ⟨hkv, hnr, hek, hdk, hcv, hctr, hrem, hcur⟩

/-- A step keeps the key, counter and stream state, or is a reset, or is a successful command's effect. -/
theorem step_stores {s t : State} (h : step s = .next t) :
    StoresKept s t
      ∨ (∃ rest, s.host = .reset :: rest ∧ t = platformReset (s.takeEvent rest))
      ∨ ∃ v i rest, s.host = issue v :: rest ∧ decode v = .command i ∧ Effect i (s.takeEvent rest).nextEpoch t := by
  rcases step_cases h with ⟨_, rfl⟩ | ⟨off, rest, _, _, rfl⟩ | ⟨off, v, rest, hhost, _, hcmd, hrun⟩
    | ⟨off, v, rest, _, _, _, rfl⟩ | ⟨rest, hhost, rfl⟩
  · exact .inl ⟨rfl, rfl, rfl, rfl, rfl, rfl, rfl, rfl⟩
  · exact .inl ⟨rfl, rfl, rfl, rfl, rfl, rfl, rfl, rfl⟩
  · obtain rfl := portReg_eq_cmd hcmd
    rcases runCommand_effect hrun with hraised | ⟨i, hdecode, heffect⟩
    · exact .inl hraised.storesKept
    · exact .inr (.inr ⟨v, i, rest, hhost, hdecode, heffect⟩)
  · exact .inl (writeReg_storesKept _ v (s.takeEvent rest).nextEpoch)
  · exact .inr (.inl ⟨rest, hhost, rfl⟩)

theorem Effect.err {i : Instr} {s t : State} (h : Effect i s t) : t.err = .success := by
  obtain ⟨_, _, _, _, _, _, _, herr, _⟩ := effect_frame h
  exact herr

/-- Only the effects of STREAM_RESET and STREAM_APPLY write REM and CURSOR. -/
theorem effect_stream {i : Instr} {s t : State} (h : Effect i s t) :
    (i = .streamReset ∨ i = .streamApply) ∨ (t.remainder = s.remainder ∧ t.cursor = s.cursor) := by
  cases i with
  | keyExpand n => obtain ⟨_, rfl⟩ := h; simp [expandKey]
  | blockEnc => obtain ⟨_, _, _, rfl⟩ := h; simp [transformAt]
  | blockDec => obtain ⟨_, _, _, rfl⟩ := h; simp [transformAt]
  | ctrLoad n => obtain ⟨_, _, rfl⟩ := h; simp
  | ctrSetval => obtain ⟨_, _, rfl⟩ := h; simp
  | ctrSetbytes => obtain ⟨_, _, rfl⟩ := h; simp
  | ctrInc => obtain ⟨_, _, _, rfl⟩ := h; simp
  | ctrClone => obtain ⟨_, _, rfl⟩ := h; simp
  | streamReset => exact .inl (.inl rfl)
  | streamApply => exact .inl (.inr rfl)

/-- Which effects write the counter; only a load can change CTR_VALID (R203 to R206, R232). -/
theorem effect_counter {i : Instr} {s t : State} (h : Effect i s t) :
    (∃ n, i = .ctrLoad n) ∨ i = .ctrSetbytes
      ∨ ((i = .ctrSetval ∨ i = .ctrInc ∨ i = .streamApply) ∧ t.ctrValid = s.ctrValid)
      ∨ (t.ctr = s.ctr ∧ t.ctrValid = s.ctrValid) := by
  cases i with
  | keyExpand n => obtain ⟨_, rfl⟩ := h; simp [expandKey]
  | blockEnc => obtain ⟨_, _, _, rfl⟩ := h; simp [transformAt]
  | blockDec => obtain ⟨_, _, _, rfl⟩ := h; simp [transformAt]
  | ctrLoad n => exact .inl ⟨n, rfl⟩
  | ctrSetval => obtain ⟨_, _, rfl⟩ := h; simp
  | ctrSetbytes => exact .inr (.inl rfl)
  | ctrInc => obtain ⟨_, _, _, rfl⟩ := h; simp
  | ctrClone => obtain ⟨_, _, rfl⟩ := h; simp
  | streamReset => cases h; simp
  | streamApply => obtain ⟨_, _, _, _, _, rfl⟩ := h; simp [streamBytes_fields]

/-! ## DK is the image of EK -/

theorem keysMatch_iff (s : State) :
    keysMatch s = true ↔
      (s.keyValid = true → ∀ r ≤ s.nr.toNat, keyRow s.dk r = mirroredRow s.ek s.nr.toNat r) := by
  cases hvalid : s.keyValid <;> simp [keysMatch, hvalid]

/-- A row of the file is read as it stands. -/
theorem keyRow_of_lt (k : RoundKeys) {r : Nat} (hr : r < 15) : keyRow k r = k[r] := by
  simp [keyRow, Vector.getD, Array.getD, hr]

/-- A row beyond the file reads as zeros (assumption 19). -/
theorem keyRow_of_ge (k : RoundKeys) {r : Nat} (hr : 15 ≤ r) : keyRow k r = Vector.replicate 4 0 := by
  simp [keyRow, Vector.getD, Array.getD, Nat.not_lt.2 hr]

theorem keyRow_committedEk {epoch nr r : Nat} {w : List Word} (hr : r ≤ nr) (hnr : nr ≤ 14) :
    keyRow (committedEk epoch nr w) r = encRow w r := by
  rw [keyRow_of_lt _ (by omega)]
  simp [committedEk, hr]

theorem keyRow_committedDk {epoch nr r : Nat} {w : List Word} (hr : r ≤ nr) (hnr : nr ≤ 14) :
    keyRow (committedDk epoch nr w) r = decRow w nr r := by
  rw [keyRow_of_lt _ (by omega)]
  simp [committedDk, hr]

/-- The two files KEY_EXPAND commits match: R164 makes row r of DK from row nr - r of EK. -/
theorem mirroredRow_committedEk {epoch nr r : Nat} {w : List Word} (hnr : nr ≤ 14) :
    mirroredRow (committedEk epoch nr w) nr r = decRow w nr r := by
  rw [mirroredRow, decRow, keyRow_committedEk (Nat.sub_le nr r) hnr]

theorem expandKey_keysMatch {nk : Nat} (hnk : nk ≤ 8) (s : State) : keysMatch (expandKey nk s) = true := by
  have hround : roundCount nk ≤ 14 := by unfold roundCount; omega
  have hnr : (BitVec.ofNat 4 (roundCount nk)).toNat = roundCount nk := by
    rw [BitVec.toNat_ofNat]
    omega
  refine (keysMatch_iff _).2 fun _ r hr => ?_
  simp only [expandKey, State.setKeys_nr, State.setKeys_ek, State.setKeys_dk, hnr] at hr ⊢
  rw [keyRow_committedDk hr hround, mirroredRow_committedEk hround]

/-- Settles O55: KEY_EXPAND commits two files that match, a reset clears KEY_VALID, every other step keeps both. -/
theorem stepKeepsTheKeysMatched : Obligations.StepKeepsTheKeysMatched := by
  intro s t hs hstep
  rw [keysMatch_iff] at hs
  rcases step_stores hstep with ⟨hvalid, hnr, hek, hdk, _⟩ | ⟨rest, _, rfl⟩ | ⟨v, i, rest, _, _, heffect⟩
  · rwa [keysMatch_iff, hvalid, hnr, hek, hdk]
  · rfl
  · rcases effect_keys heffect with ⟨n, rfl⟩ | ⟨hvalid, hnr, hek, hdk⟩
    · obtain ⟨hn, rfl⟩ := heffect
      exact expandKey_keysMatch (by omega) (s.takeEvent rest).nextEpoch
    · rwa [keysMatch_iff, hvalid, hnr, hek, hdk]

/-! ## Which steps write what -/

/-- Settles O36: of the steps that can write the stores, only KEY_EXPAND's effect touches the keys. -/
theorem onlyKeyExpandWritesRoundKeys : Obligations.OnlyKeyExpandWritesRoundKeys := by
  intro s t hstep hchange
  rcases step_stores hstep with ⟨hvalid, hnr, hek, hdk, _⟩ | ⟨rest, hhost, _⟩ | ⟨v, i, rest, hhost, hdecode, heffect⟩
  · simp [hvalid, hnr, hek, hdk] at hchange
  · exact .inl ⟨rest, hhost⟩
  · rcases effect_keys heffect with ⟨n, rfl⟩ | ⟨hvalid, hnr, hek, hdk⟩
    · exact .inr ⟨v, n, rest, hhost, hdecode, heffect.err⟩
    · simp [hvalid, hnr, hek, hdk] at hchange

/-- Settles O37: of the steps that can write the stores, only the two stream commands' effects touch REM and CURSOR. -/
theorem onlyStreamCommandsWriteTheStream : Obligations.OnlyStreamCommandsWriteTheStream := by
  intro s t hstep hchange
  rcases step_stores hstep with ⟨_, _, _, _, _, _, hrem, hcursor⟩ | ⟨rest, hhost, _⟩
    | ⟨v, i, rest, hhost, hdecode, heffect⟩
  · simp [hrem, hcursor] at hchange
  · exact .inl ⟨rest, hhost⟩
  · rcases effect_stream heffect with hi | ⟨hrem, hcursor⟩
    · exact .inr ⟨v, rest, hhost, by rcases hi with rfl | rfl <;> simp [hdecode], heffect.err⟩
    · simp [hrem, hcursor] at hchange

/-- Settles O38: of the steps that can write the stores, only the five commands' effects touch CTR or CTR_VALID. -/
theorem onlyCounterCommandsWriteTheCounter : Obligations.OnlyCounterCommandsWriteTheCounter := by
  intro s t hstep hchange
  rcases step_stores hstep with ⟨_, _, _, _, hvalid, hctr, _⟩ | ⟨rest, hhost, _⟩
    | ⟨v, i, rest, hhost, hdecode, heffect⟩
  · simp [hvalid, hctr] at hchange
  · exact .inl ⟨rest, hhost⟩
  · refine .inr ⟨v, i, rest, hhost, hdecode, heffect.err, ?_⟩
    rcases effect_counter heffect with hload | hbytes | hkeep | ⟨hctr, hvalid⟩
    · exact .inl hload
    · exact .inr (.inl hbytes)
    · exact .inr (.inr hkeep)
    · simp [hctr, hvalid] at hchange

/-- Settles O35: an error and every effect leave the operand registers, the parameters and the model's own fields. -/
theorem commandsNeverWriteOperands : Obligations.CommandsNeverWriteOperands := by
  intro v s t hrun
  rcases runCommand_effect hrun with ⟨e, _, rfl⟩ | ⟨i, _, heffect⟩
  · simp
  · obtain ⟨hparams, haddr, hlen, hlo, hhi, hnonce, hkey, _, _, hhost, hdata, hepoch, hdraws⟩ := effect_frame heffect
    exact ⟨haddr, hlen, hlo, hhi, hnonce, hkey, hparams, hhost, hdata, hepoch, hdraws⟩

end Sys2Proof.Machine
end

section
/-! PROOF. Noninterference of the unspecified content (R50, ID2): two states that agree on what the spec specifies
answer each event alike, and the states they answer agree again. -/

namespace Sys2Proof.Machine

/-! ## States that differ in unspecified content -/

/-- s with other round keys, counter and REM. -/
def State.withStores (s : State) (ek dk : RoundKeys) (ctr rem : Block) : State :=
  { s with ek := ek, dk := dk, ctr := ctr, remainder := rem }

/-- The round keys, counter and REM given agree with those of s wherever the spec specifies them. -/
structure StoresAgree (s : State) (ek dk : RoundKeys) (ctr rem : Block) : Prop where
  keys : s.keyValid = true → rowsAgree s.ek ek s.nr.toNat ∧ rowsAgree s.dk dk s.nr.toNat
  counter : s.ctrValid = true → s.ctr = ctr
  stream : s.cursor.val < 16 → s.remainder = rem

theorem specifiedAgree_withStores {s : State} {ek dk : RoundKeys} {ctr rem : Block}
    (h : StoresAgree s ek dk ctr rem) : specifiedAgree s (s.withStores ek dk ctr rem) :=
  ⟨rfl, h.keys, h.counter, h.stream⟩

theorem specifiedAgree_iff (s u : State) :
    specifiedAgree s u ↔ ∃ ek dk ctr rem, u = s.withStores ek dk ctr rem ∧ StoresAgree s ek dk ctr rem := by
  constructor
  · rintro ⟨hu, hkeys, hctr, hrem⟩
    exact ⟨u.ek, u.dk, u.ctr, u.remainder, hu, hkeys, hctr, hrem⟩
  · rintro ⟨ek, dk, ctr, rem, rfl, h⟩
    exact specifiedAgree_withStores h

theorem specifiedAgree_refl (s : State) : specifiedAgree s s :=
  ⟨rfl, fun _ => ⟨fun _ _ => rfl, fun _ _ => rfl⟩, fun _ => rfl, fun _ => rfl⟩

/-! ## Two runs of one command -/

/-- Both outcomes are next states, and R relates them. -/
def BothAnswer (R : State → State → Prop) (a b : Result) : Prop := ∃ t x, a = .next t ∧ b = .next x ∧ R t x

theorem BothAnswer.next {R : State → State → Prop} {t x : State} (h : R t x) : BothAnswer R (.next t) (.next x) :=
  ⟨t, x, rfl, rfl, h⟩

theorem BothAnswer.ite {R : State → State → Prop} {c : Prop} [Decidable c] {a b a' b' : Result}
    (ha : c → BothAnswer R a a') (hb : ¬c → BothAnswer R b b') :
    BothAnswer R (if c then a else b) (if c then a' else b') := by
  by_cases hc : c
  · simpa only [if_pos hc] using ha hc
  · simpa only [if_neg hc] using hb hc

theorem raise_agree (e : ErrorCode) {s u : State} (h : specifiedAgree s u) :
    specifiedAgree (s.raise e) (u.raise e) := by
  obtain ⟨ek, dk, ctr, rem, rfl, hs⟩ := (specifiedAgree_iff s u).1 h
  exact ⟨rfl, hs.keys, hs.counter, hs.stream⟩

/-- A check of a command that raises an error, and then the rest of the command. -/
theorem specifiedAgree.check {c : Prop} [Decidable c] {e : ErrorCode} {s u : State} {a b : Result}
    (h : specifiedAgree s u) (hab : ¬c → BothAnswer specifiedAgree a b) :
    BothAnswer specifiedAgree (if c then raiseError e s else a) (if c then raiseError e u else b) :=
  .ite (fun _ => .next (raise_agree e h)) hab

theorem succeed_agree {s u : State} (h : specifiedAgree s u) :
    BothAnswer specifiedAgree (succeed s) (succeed u) := by
  obtain ⟨ek, dk, ctr, rem, rfl, hs⟩ := (specifiedAgree_iff s u).1 h
  exact .next ⟨rfl, hs.keys, hs.counter, hs.stream⟩

/-! ## What the commands read -/

theorem keyRow_of_rowsAgree {k l : RoundKeys} {nr r : Nat} (h : rowsAgree k l nr) (hr : r ≤ nr) :
    keyRow k r = keyRow l r := by
  by_cases h15 : r < 15
  · rw [keyRow_of_lt k h15, keyRow_of_lt l h15]
    exact h ⟨r, h15⟩ hr
  · rw [keyRow_of_ge k (by omega), keyRow_of_ge l (by omega)]

theorem middleRounds_of_rowsAgree {k l : RoundKeys} {nr n : Nat} (d : Direction) (t : RoundKey)
    (h : rowsAgree k l nr) (hn : n ≤ nr) : middleRounds d k n t = middleRounds d l n t := by
  induction n with
  | zero => rfl
  | succ n ih => rw [middleRounds, middleRounds, keyRow_of_rowsAgree h hn, ih (by omega)]

/-- The transform reads no row above nr (R180). -/
theorem blockTransform_of_rowsAgree {k l : RoundKeys} {nr : Nat} (d : Direction) (x : Block)
    (h : rowsAgree k l nr) : blockTransform d k nr x = blockTransform d l nr x := by
  rw [blockTransform, blockTransform, keyRow_of_rowsAgree h (Nat.le_refl nr), keyRow_of_rowsAgree h (Nat.zero_le nr),
    middleRounds_of_rowsAgree d _ h (Nat.sub_le nr 1)]

theorem encryptBlock_withStores {s : State} {ek dk : RoundKeys} {ctr rem : Block} (h : StoresAgree s ek dk ctr rem)
    (hk : s.keyValid = true) : encryptBlock (s.withStores ek dk ctr rem) = encryptBlock s :=
  funext fun x => (blockTransform_of_rowsAgree forward x (h.keys hk).1).symm

theorem decryptBlock_withStores {s : State} {ek dk : RoundKeys} {ctr rem : Block} (h : StoresAgree s ek dk ctr rem)
    (hk : s.keyValid = true) : decryptBlock (s.withStores ek dk ctr rem) = decryptBlock s :=
  funext fun x => (blockTransform_of_rowsAgree inverse x (h.keys hk).2).symm

/-! ## The byte loop of STREAM_APPLY -/

theorem consume_agree (a : Nat) {s u : State} (h : specifiedAgree s u) :
    specifiedAgree (consume a s) (consume a u) := by
  obtain ⟨ek, dk, ctr, rem, rfl, hs⟩ := (specifiedAgree_iff s u).1 h
  by_cases hc : s.cursor.val < 16
  · obtain rfl := hs.stream hc
    have hc' : (s.withStores ek dk ctr s.remainder).cursor.val < 16 := hc
    simp only [consume, hc, hc', dif_pos]
    exact ⟨rfl, hs.keys, hs.counter, fun _ => rfl⟩
  · have hc' : ¬(s.withStores ek dk ctr rem).cursor.val < 16 := hc
    simpa only [consume, hc, hc', dif_neg, not_false_eq_true] using h

/-- With a key and a counter the new keystream block and the new counter are specified. -/
theorem refill_agree {s u : State} (h : specifiedAgree s u) (hk : s.keyValid = true) (hc : s.ctrValid = true) :
    specifiedAgree (refill s) (refill u) := by
  obtain ⟨ek, dk, ctr, rem, rfl, hs⟩ := (specifiedAgree_iff s u).1 h
  obtain rfl := hs.counter hc
  rw [refill, refill, encryptBlock_withStores hs hk]
  exact ⟨rfl, hs.keys, fun _ => rfl, fun _ => rfl⟩

theorem specifiedAgree.cursor {s u : State} (h : specifiedAgree s u) : u.cursor = s.cursor := by
  obtain ⟨ek, dk, ctr, rem, rfl, _⟩ := (specifiedAgree_iff s u).1 h
  rfl

theorem streamByte_agree (a : Nat) {s u : State} (h : specifiedAgree s u) (hk : s.keyValid = true)
    (hc : s.ctrValid = true) : specifiedAgree (streamByte a s) (streamByte a u) := by
  rw [streamByte, streamByte, h.cursor]
  refine consume_agree a ?_
  split
  · exact refill_agree h hk hc
  · exact h

theorem streamBytes_agree (a n : Nat) {s u : State} (h : specifiedAgree s u) (hk : s.keyValid = true)
    (hc : s.ctrValid = true) : specifiedAgree (streamBytes a n s) (streamBytes a n u) := by
  induction n with
  | zero => exact h
  | succ n ih =>
    rw [streamBytes_succ, streamBytes_succ]
    exact streamByte_agree _ ih (by simpa [streamBytes_fields] using hk) (by simpa [streamBytes_fields] using hc)

/-! ## Every command -/

/-- BLOCK_ENC and BLOCK_DEC, whose image f and g of a block agree once there is a key. -/
theorem blockCommand_agree {f g : Block → Block} {s u : State} (h : specifiedAgree s u)
    (hfg : s.keyValid = true → g = f) : BothAnswer specifiedAgree (blockCommand f s) (blockCommand g u) := by
  obtain ⟨ek, dk, ctr, rem, rfl, hs⟩ := (specifiedAgree_iff s u).1 h
  refine h.check fun hk => h.check fun _ => h.check fun _ => ?_
  rw [hfg (by simpa using hk)]
  exact succeed_agree ⟨rfl, hs.keys, hs.counter, hs.stream⟩

theorem execKeyExpand_agree (n : Nat) {s u : State} (h : specifiedAgree s u) :
    BothAnswer specifiedAgree (execKeyExpand n s) (execKeyExpand n u) := by
  obtain ⟨ek, dk, ctr, rem, rfl, hs⟩ := (specifiedAgree_iff s u).1 h
  refine h.check fun _ => h.check fun _ => succeed_agree ?_
  exact ⟨rfl, fun _ => ⟨fun _ _ => rfl, fun _ _ => rfl⟩, hs.counter, hs.stream⟩

theorem execCtrLoad_agree (n : Nat) {s u : State} (h : specifiedAgree s u) :
    BothAnswer specifiedAgree (execCtrLoad n s) (execCtrLoad n u) := by
  obtain ⟨ek, dk, ctr, rem, rfl, hs⟩ := (specifiedAgree_iff s u).1 h
  refine h.check fun _ => h.check fun _ => succeed_agree ?_
  exact ⟨rfl, hs.keys, fun _ => rfl, hs.stream⟩

theorem execCtrSetval_agree {s u : State} (h : specifiedAgree s u) :
    BothAnswer specifiedAgree (execCtrSetval s) (execCtrSetval u) := by
  obtain ⟨ek, dk, ctr, rem, rfl, hs⟩ := (specifiedAgree_iff s u).1 h
  refine h.check fun hc => h.check fun _ => succeed_agree ?_
  obtain rfl := hs.counter (by simpa using hc)
  exact ⟨rfl, hs.keys, fun _ => rfl, hs.stream⟩

theorem execCtrSetbytes_agree {s u : State} (h : specifiedAgree s u) :
    BothAnswer specifiedAgree (execCtrSetbytes s) (execCtrSetbytes u) := by
  obtain ⟨ek, dk, ctr, rem, rfl, hs⟩ := (specifiedAgree_iff s u).1 h
  refine h.check fun _ => h.check fun _ => succeed_agree ?_
  exact ⟨rfl, hs.keys, fun _ => rfl, hs.stream⟩

theorem execCtrInc_agree {s u : State} (h : specifiedAgree s u) :
    BothAnswer specifiedAgree (execCtrInc s) (execCtrInc u) := by
  obtain ⟨ek, dk, ctr, rem, rfl, hs⟩ := (specifiedAgree_iff s u).1 h
  refine h.check fun hc => ?_
  obtain rfl := hs.counter (by simpa using hc)
  change BothAnswer specifiedAgree _ (match increment s.params.ctrOverflow s.ctr with
    | none => _
    | some b => succeed ((s.withStores ek dk s.ctr rem).setCtr b))
  cases increment s.params.ctrOverflow s.ctr with
  | none => exact .next (raise_agree .counterExhausted h)
  | some b => exact succeed_agree ⟨rfl, hs.keys, fun _ => rfl, hs.stream⟩

theorem execCtrClone_agree {s u : State} (h : specifiedAgree s u) :
    BothAnswer specifiedAgree (execCtrClone s) (execCtrClone u) := by
  obtain ⟨ek, dk, ctr, rem, rfl, hs⟩ := (specifiedAgree_iff s u).1 h
  refine h.check fun hc => h.check fun _ => succeed_agree ?_
  obtain rfl := hs.counter (by simpa using hc)
  exact ⟨rfl, hs.keys, fun _ => rfl, hs.stream⟩

/-- After STREAM_RESET the content of REM is unspecified on both sides (R231). -/
theorem execStreamReset_agree {s u : State} (h : specifiedAgree s u) :
    BothAnswer specifiedAgree (execStreamReset s) (execStreamReset u) := by
  obtain ⟨ek, dk, ctr, rem, rfl, hs⟩ := (specifiedAgree_iff s u).1 h
  exact succeed_agree ⟨rfl, hs.keys, hs.counter, fun hc => absurd hc (by simp)⟩

theorem execStreamApply_agree {s u : State} (h : specifiedAgree s u) :
    BothAnswer specifiedAgree (execStreamApply s) (execStreamApply u) := by
  obtain ⟨ek, dk, ctr, rem, rfl, hs⟩ := (specifiedAgree_iff s u).1 h
  refine h.check fun hk => h.check fun hc => h.check fun _ => h.check fun _ => ?_
  rw [Bool.not_eq_false] at hk hc
  obtain rfl := hs.counter hc
  exact h.check fun _ => succeed_agree (streamBytes_agree _ _ h hk hc)

theorem exec_agree (i : Instr) {s u : State} (h : specifiedAgree s u) :
    BothAnswer specifiedAgree (exec i s) (exec i u) := by
  cases i with
  | keyExpand n => exact execKeyExpand_agree n h
  | blockEnc =>
    obtain ⟨ek, dk, ctr, rem, rfl, hs⟩ := (specifiedAgree_iff s u).1 h
    exact blockCommand_agree h (encryptBlock_withStores hs)
  | blockDec =>
    obtain ⟨ek, dk, ctr, rem, rfl, hs⟩ := (specifiedAgree_iff s u).1 h
    exact blockCommand_agree h (decryptBlock_withStores hs)
  | ctrLoad n => exact execCtrLoad_agree n h
  | ctrSetval => exact execCtrSetval_agree h
  | ctrSetbytes => exact execCtrSetbytes_agree h
  | ctrInc => exact execCtrInc_agree h
  | ctrClone => exact execCtrClone_agree h
  | streamReset => exact execStreamReset_agree h
  | streamApply => exact execStreamApply_agree h

theorem runCommand_agree (v : Word) {s u : State} (h : specifiedAgree s u) :
    BothAnswer specifiedAgree (runCommand v s) (runCommand v u) := by
  unfold runCommand
  cases decode v with
  | command i => exact exec_agree i h
  | illegal why => exact .next (raise_agree .commandInvalid h)

/-! ## Every event -/

/-- A read shows a counter word or a round-key word only while it is specified (R41, R42). -/
theorem readValue_withStores {s : State} {ek dk : RoundKeys} {ctr rem : Block} (hs : StoresAgree s ek dk ctr rem)
    (off : Nat) : readValue (s.withStores ek dk ctr rem) off = readValue s off := by
  have hparams : (s.withStores ek dk ctr rem).params = s.params := rfl
  unfold readValue
  rw [hparams]
  cases portReg s.params.dmemBytes off with
  | ctr i =>
    change (if s.ctrValid then blockWord ctr i else _) = if s.ctrValid then blockWord s.ctr i else _
    split
    · next hc => rw [hs.counter hc]
    · rfl
  | ek r c =>
    change (if s.keyValid && decide (r.val ≤ s.nr.toNat) then ek[r][c] else _) = if _ then s.ek[r][c] else _
    split
    · next hk =>
      rw [Bool.and_eq_true, decide_eq_true_eq] at hk
      rw [(hs.keys hk.1).1 r hk.2]
    · rfl
  | dk r c =>
    change (if s.keyValid && decide (r.val ≤ s.nr.toNat) then dk[r][c] else _) = if _ then s.dk[r][c] else _
    split
    · next hk =>
      rw [Bool.and_eq_true, decide_eq_true_eq] at hk
      rw [(hs.keys hk.1).2 r hk.2]
    · rfl
  | _ => rfl

theorem hostRead_agree (off : Nat) {s u : State} (h : specifiedAgree s u) :
    specifiedAgree (hostRead off s) (hostRead off u) := by
  obtain ⟨ek, dk, ctr, rem, rfl, hs⟩ := (specifiedAgree_iff s u).1 h
  rw [hostRead, hostRead, readValue_withStores hs]
  exact ⟨rfl, hs.keys, hs.counter, hs.stream⟩

theorem writeReg_agree (r : PortReg) (v : Word) {s u : State} (h : specifiedAgree s u) :
    specifiedAgree (writeReg r v s) (writeReg r v u) := by
  obtain ⟨ek, dk, ctr, rem, rfl, hs⟩ := (specifiedAgree_iff s u).1 h
  cases r <;> exact ⟨rfl, hs.keys, hs.counter, hs.stream⟩

theorem hostWrite_agree (off : Nat) (v : Word) {s u : State} (h : specifiedAgree s u) :
    BothAnswer specifiedAgree (hostWrite off v s) (hostWrite off v u) := by
  obtain ⟨ek, dk, ctr, rem, rfl, hs⟩ := (specifiedAgree_iff s u).1 h
  have hnext : specifiedAgree s.nextEpoch (s.withStores ek dk ctr rem).nextEpoch :=
    ⟨rfl, hs.keys, hs.counter, hs.stream⟩
  exact .ite (fun _ => runCommand_agree v hnext) fun _ => .next (writeReg_agree _ v hnext)

/-- Two outcomes that are next states which agree, or the same stop. -/
inductive Alike : Result → Result → Prop
  | next {t x : State} (h : specifiedAgree t x) : Alike (.next t) (.next x)
  | fault (r : Fault) : Alike (.fault r) (.fault r)
  | refused (r : Refusal) : Alike (.refused r) (.refused r)

/-- The port refuses an access outside the interface whatever the state (R75). -/
theorem checkAccess_alike (width off : Nat) {a b : Result} (h : BothAnswer specifiedAgree a b) :
    Alike (checkAccess width off a) (checkAccess width off b) := by
  obtain ⟨t, x, rfl, rfl, h⟩ := h
  unfold checkAccess
  by_cases hwidth : width ≠ 32
  · simpa only [if_pos hwidth] using .refused _
  · by_cases halign : off % 4 ≠ 0
    · simpa only [if_neg hwidth, if_pos halign] using .refused _
    · simpa only [if_neg hwidth, if_neg halign] using .next h

theorem perform_alike (e : HostEvent) {s u : State} (h : specifiedAgree s u) : Alike (perform e s) (perform e u) := by
  cases e with
  | read width off => exact checkAccess_alike width off (.next (hostRead_agree off h))
  | write width off v => exact checkAccess_alike width off (hostWrite_agree off v h)
  | reset =>
    obtain ⟨ek, dk, ctr, rem, rfl, _⟩ := (specifiedAgree_iff s u).1 h
    exact .next (specifiedAgree_refl (platformReset s))

theorem step_alike {s u : State} (h : specifiedAgree s u) : Alike (step s) (step u) := by
  obtain ⟨ek, dk, ctr, rem, rfl, hs⟩ := (specifiedAgree_iff s u).1 h
  cases hhost : s.host with
  | nil =>
    rw [step_nil hhost, step_nil (s := s.withStores ek dk ctr rem) hhost]
    exact .next h
  | cons e rest =>
    rw [step_cons hhost, step_cons (s := s.withStores ek dk ctr rem) hhost]
    exact perform_alike e ⟨rfl, hs.keys, hs.counter, hs.stream⟩

/-- Settles O56: every event, and so every step, answers two states that agree alike. -/
theorem unspecifiedContentNeverShows : Obligations.UnspecifiedContentNeverShows := by
  intro s u h
  have halike := step_alike h
  generalize step s = a, step u = b at halike ⊢
  cases halike with
  | next ht => exact ⟨_, rfl, ht⟩
  | fault r => rfl
  | refused r => rfl

end Sys2Proof.Machine
end

section
/-! PROOF. The port (R32, R33, R39 to R42, R49): every register stands at its offset, an operand register keeps the word
written to it, every read-only or missing register ignores a write, and what the other reads return. -/

namespace Sys2Proof.Machine

/-! ## The port map -/

/-- Settles O6, register by register. -/
theorem registersAnswerAtTheirOffsets : Obligations.RegistersAnswerAtTheirOffsets := by
  intro n off r hoff hwindow
  cases r with
  | reserved => cases hoff
  | unmapped => cases hoff
  | nonce i => cases hoff; fin_cases i <;> rfl
  | ctr i => cases hoff; fin_cases i <;> rfl
  | key i => cases hoff; fin_cases i <;> rfl
  | ek r c => cases hoff; fin_cases r <;> fin_cases c <;> rfl
  | dk r c => cases hoff; fin_cases r <;> fin_cases c <;> rfl
  | dmem a => cases hoff; exact portReg_window (hwindow a rfl)
  | _ => cases hoff; rfl

/-- A register that is no window word is found at its offset whatever DMEM_BYTES is. -/
theorem portReg_of_offset {r : PortReg} {off : Nat} (hoff : portOffset r = some off) (hr : ∀ a, r ≠ .dmem a) (n : Nat) :
    portReg n off = r :=
  registersAnswerAtTheirOffsets n off r hoff fun a h => absurd h (hr a)

/-! ## One transaction of the interface -/

/-- A write of the interface to a register that is not CMD. -/
theorem step_write {s : State} {off : Nat} {v : Word} {rest : List HostEvent} {r : PortReg}
    (hhost : s.host = .write 32 off v :: rest) (halign : off % 4 = 0) (hr : portReg s.params.dmemBytes off = r)
    (hcmd : r ≠ .cmd) : step s = .next (writeReg r v (s.takeEvent rest).nextEpoch) := by
  simp [step_cons hhost, perform, checkAccess, halign, hostWrite, hr, hcmd]

theorem step_read {s : State} {off : Nat} {rest : List HostEvent} (hhost : s.host = .read 32 off :: rest)
    (halign : off % 4 = 0) : step s = .next (hostRead off (s.takeEvent rest)) := by
  simp [step_cons hhost, perform, checkAccess, halign]

/-- A read of the interface answers the word of its offset. -/
theorem step_read_answer {s : State} {off : Nat} {rest : List HostEvent} (hhost : s.host = .read 32 off :: rest)
    (halign : off % 4 = 0) : ∃ t, step s = .next t ∧ t.readData = some (readValue s off) :=
  ⟨_, step_read hhost halign, rfl⟩

/-! ## Operand registers -/

/-- The read-write registers of R33 outside the DMEM window. -/
inductive OperandReg where
  | addr
  | len
  | seedLo
  | seedHi
  | nonce (i : Fin 3)
  | key (i : Fin 8)

/-- The operand register as a register of the port map. -/
def OperandReg.port : OperandReg → PortReg
  | .addr => .addr
  | .len => .len
  | .seedLo => .seedLo
  | .seedHi => .seedHi
  | .nonce i => .nonce i
  | .key i => .key i

/-- The word an operand register holds. -/
def OperandReg.value (s : State) : OperandReg → Word
  | .addr => s.addr
  | .len => s.len
  | .seedLo => s.seedLo
  | .seedHi => s.seedHi
  | .nonce i => s.nonce[i]
  | .key i => s.key[i]

/-- The offsets of the operand registers are the three ranges of R33. -/
theorem exists_operand_of_range {off : Nat} (halign : off % 4 = 0)
    (hrange : (0x008 ≤ off ∧ off ≤ 0x014) ∨ (0x020 ≤ off ∧ off ≤ 0x028) ∨ (0x040 ≤ off ∧ off ≤ 0x05C)) :
    ∃ r : OperandReg, portOffset r.port = some off := by
  rcases hrange with ⟨hlo, hhi⟩ | ⟨hlo, hhi⟩ | ⟨hlo, hhi⟩
  · rcases (by omega : off = 0x008 ∨ off = 0x00C ∨ off = 0x010 ∨ off = 0x014) with rfl | rfl | rfl | rfl
    · exact ⟨.addr, rfl⟩
    · exact ⟨.len, rfl⟩
    · exact ⟨.seedLo, rfl⟩
    · exact ⟨.seedHi, rfl⟩
  · exact ⟨.nonce ⟨(off - 0x020) / 4, by omega⟩, congrArg some (by dsimp only; omega)⟩
  · exact ⟨.key ⟨(off - 0x040) / 4, by omega⟩, congrArg some (by dsimp only; omega)⟩

theorem portReg_operand {r : OperandReg} {off : Nat} (hoff : portOffset r.port = some off) (n : Nat) :
    portReg n off = r.port :=
  portReg_of_offset hoff (by cases r <;> exact fun _ h => nomatch h) n

theorem readValue_operand {r : OperandReg} {off : Nat} (hoff : portOffset r.port = some off) (s : State) :
    readValue s off = r.value s := by
  rw [readValue, portReg_operand hoff]
  cases r <;> rfl

/-- A read of an operand register changes the model's answer field alone (R77). -/
theorem hostRead_operand {r : OperandReg} {off : Nat} (hoff : portOffset r.port = some off) (s : State) :
    hostRead off s = { s with readData := some (r.value s) } := by
  rw [hostRead, readValue_operand hoff, portReg_operand hoff]
  cases r <;> rfl

theorem value_writeReg_same (r : OperandReg) (v : Word) (s : State) : r.value (writeReg r.port v s) = v := by
  cases r <;> simp [OperandReg.value, OperandReg.port, writeReg]

theorem value_writeReg_other {r q : OperandReg} (h : q ≠ r) (v : Word) (s : State) :
    q.value (writeReg r.port v s) = q.value s := by
  cases r with
  | addr => cases q with
    | addr => exact absurd rfl h
    | _ => rfl
  | len => cases q with
    | len => exact absurd rfl h
    | _ => rfl
  | seedLo => cases q with
    | seedLo => exact absurd rfl h
    | _ => rfl
  | seedHi => cases q with
    | seedHi => exact absurd rfl h
    | _ => rfl
  | nonce i => cases q with
    | nonce j =>
      have hij : i.val ≠ j.val := fun e => h (congrArg OperandReg.nonce (Fin.ext e.symm))
      exact Vector.getElem_set_ne i.isLt j.isLt hij
    | _ => rfl
  | key i => cases q with
    | key j =>
      have hij : i.val ≠ j.val := fun e => h (congrArg OperandReg.key (Fin.ext e.symm))
      exact Vector.getElem_set_ne i.isLt j.isLt hij
    | _ => rfl

/-- Settles O49: the write reaches the register of its offset and the read finds it there. -/
theorem operandWritesReadBack : Obligations.OperandWritesReadBack := by
  intro s off v rest halign hrange hhost
  obtain ⟨r, hoff⟩ := exists_operand_of_range halign hrange
  have hwrite := step_write hhost halign (portReg_operand hoff _) (by cases r <;> exact fun h => nomatch h)
  let s₁ := writeReg r.port v (s.takeEvent (.read 32 off :: rest)).nextEpoch
  have hhost₁ : s₁.host = .read 32 off :: rest := by simp [s₁, writeReg_fields]
  have hread := step_read hhost₁ halign
  rw [hostRead_operand hoff] at hread
  have hvalue : r.value (s₁.takeEvent rest) = v := value_writeReg_same r v _
  refine ⟨_, by rw [run_succ hwrite, run_succ hread]; rfl, congrArg some hvalue, ?_, ?_⟩
  · intro o hoalign hne horange
    obtain ⟨q, hqoff⟩ := exists_operand_of_range hoalign horange
    have hqr : q ≠ r := fun h => hne (Option.some.inj (hqoff.symm.trans (h ▸ hoff)))
    rw [readValue_operand hqoff, readValue_operand hqoff]
    exact value_writeReg_other hqr v _
  · rw [hvalue]
    cases r <;> rfl

/-! ## Ignored writes -/

/-- A register without a meaning for writes (R48, R49). -/
def ignoresWrites : PortReg → Bool
  | .status | .info | .ctr _ | .ek _ _ | .dk _ _ | .reserved | .unmapped => true
  | .cmd | .addr | .len | .seedLo | .seedHi | .nonce _ | .key _ | .dmem _ => false

theorem writeReg_of_ignoresWrites {r : PortReg} (h : ignoresWrites r = true) (v : Word) (s : State) :
    writeReg r v s = s := by
  cases r with
  | cmd | addr | len | seedLo | seedHi => cases h
  | nonce _ | key _ | dmem _ => cases h
  | _ => rfl

theorem step_ignored_write {s : State} {off : Nat} {v : Word} {rest : List HostEvent}
    (hhost : s.host = .write 32 off v :: rest) (halign : off % 4 = 0)
    (hr : ignoresWrites (portReg s.params.dmemBytes off) = true) :
    step s = .next { s with host := rest, readData := none, epoch := s.epoch + 1 } := by
  have hcmd : portReg s.params.dmemBytes off ≠ .cmd := fun h => by rw [h] at hr; cases hr
  rw [step_write hhost halign rfl hcmd, writeReg_of_ignoresWrites hr]
  rfl

theorem bankReg_ignoresWrites {off : Nat} (h : (0x02C ≤ off ∧ off < 0x040) ∨ 0x060 ≤ off) :
    ignoresWrites (bankReg off) = true := by
  unfold bankReg
  split_ifs
  · omega
  · rfl
  · rfl
  · omega
  all_goals rfl

theorem portReg_ignoresWrites {n off : Nat}
    (h : off = 0x004 ∨ off = 0x018 ∨ off = 0x01C ∨ off = 0x02C ∨ (0x030 ≤ off ∧ off < 0x040)
      ∨ (0x060 ≤ off ∧ off < 0x1000) ∨ 0x1000 + n ≤ off) : ignoresWrites (portReg n off) = true := by
  by_cases hscalar : off < 0x020
  · rcases (by omega : off = 0x004 ∨ off = 0x018 ∨ off = 0x01C ∨ 0x1000 + n ≤ off) with rfl | rfl | rfl | hoff
    · rfl
    · rfl
    · rfl
    · omega
  · by_cases hbank : off < 0x1000
    · rw [portReg, if_neg hscalar, if_pos hbank]
      exact bankReg_ignoresWrites (by omega)
    · rw [portReg, if_neg hscalar, if_neg hbank, if_neg (by omega)]
      rfl

/-- Settles O50: every such offset names a register that ignores writes. -/
theorem ignoredWritesChangeNothing : Obligations.IgnoredWritesChangeNothing :=
  fun _ _ _ _ halign hoff hhost => step_ignored_write hhost halign (portReg_ignoresWrites hoff)

/-! ## What the read-only registers answer -/

theorem step_params {s t : State} (h : step s = .next t) : t.params = s.params := by
  rcases step_cases h with ⟨_, rfl⟩ | ⟨off, rest, _, _, rfl⟩ | ⟨off, v, rest, _, _, _, hrun⟩
    | ⟨off, v, rest, _, _, _, rfl⟩ | ⟨rest, _, rfl⟩
  · rfl
  · rfl
  · obtain ⟨_, _, _, _, _, _, hparams, _⟩ := commandsNeverWriteOperands v _ t hrun
    exact hparams
  · exact (writeReg_fields _ v _).1
  · rfl

/-- Settles O45: INFO answers DMEM_BYTES, ignores writes, and no step changes the parameters. -/
theorem infoReadsDmemBytes : Obligations.InfoReadsDmemBytes := by
  refine ⟨fun s rest hbytes hhost => ?_, fun s v rest hhost => ?_, fun s t hstep => by rw [step_params hstep]⟩
  · obtain ⟨t, hstep, hdata⟩ := step_read_answer hhost rfl
    refine ⟨t, BitVec.ofNat 32 s.params.dmemBytes, hstep, hdata, ?_⟩
    rw [BitVec.toNat_ofNat]
    omega
  · exact step_ignored_write hhost rfl rfl

/-- Settles O46: the read shows the counter's word, which is made of its four bytes. -/
theorem counterWordsReadTheCounter : Obligations.CounterWordsReadTheCounter := by
  intro s i rest hvalid hhost
  obtain ⟨t, hstep, hdata⟩ := step_read_answer hhost (by omega)
  have hvalue : readValue s (0x030 + 4 * i.val) = blockWord s.ctr i := by
    rw [readValue, portReg_of_offset (r := .ctr i) rfl (fun _ h => nomatch h)]
    exact if_pos hvalid
  refine ⟨t, blockWord s.ctr i, hstep, hvalue ▸ hdata, byteOf_blockWord s.ctr i, ?_⟩
  rintro rfl
  rfl

/-- Settles O47: with a key there, rows up to NR are shown as they stand. -/
theorem roundKeyWordsReadTheKeys : Obligations.RoundKeyWordsReadTheKeys := by
  intro s r c rest hvalid hrow
  have hshown : (s.keyValid && decide (r.val ≤ s.nr.toNat)) = true := by simp [hvalid, hrow]
  constructor
  · intro hhost
    obtain ⟨t, hstep, hdata⟩ := step_read_answer hhost (by omega)
    refine ⟨t, hstep, ?_⟩
    rw [hdata, readValue, portReg_of_offset (r := .ek r c) rfl (fun _ h => nomatch h)]
    exact congrArg some (if_pos hshown)
  · intro hhost
    obtain ⟨t, hstep, hdata⟩ := step_read_answer hhost (by omega)
    refine ⟨t, hstep, ?_⟩
    rw [hdata, readValue, portReg_of_offset (r := .dk r c) rfl (fun _ h => nomatch h)]
    exact congrArg some (if_pos hshown)

/-! ## STATUS -/

/-- Two words put side by side, as a number. -/
theorem toNat_append_eq {m n : Nat} (x : BitVec m) (y : BitVec n) : (x ++ y).toNat = x.toNat * 2 ^ n + y.toNat := by
  rw [BitVec.toNat_append, ← Nat.shiftLeft_add_eq_or_of_lt y.isLt, Nat.shiftLeft_eq]

/-- STATUS as a number: each field times its weight (R39). -/
theorem statusWord_toNat (s : State) :
    (statusWord s).toNat = (ovfNumber s.params.ctrOverflow).toNat * 2 ^ 20 + (nrField s).toNat * 2 ^ 16
      + s.cursor.val * 2 ^ 8 + s.sticky.toNat * 2 ^ 6 + s.ctrValid.toNat * 2 ^ 5 + s.keyValid.toNat * 2 ^ 4
      + (errNumber s.err).toNat := by
  have hcursor : s.cursor.val % 2 ^ 5 = s.cursor.val := Nat.mod_eq_of_lt (by omega)
  unfold statusWord
  simp only [toNat_append_eq, BitVec.toNat_ofBool, BitVec.toNat_ofNat, BitVec.ofNat_eq_ofNat, hcursor]
  omega

theorem getLsbD_eq_of_toNat {w : Word} {k : Nat} {b : Bool} (h : w.toNat / 2 ^ k % 2 = b.toNat) :
    w.getLsbD k = b := by
  rw [BitVec.getLsbD, Nat.testBit_eq_decide_div_mod_eq, h]
  cases b <;> rfl

/-- A field of a word, from its number. -/
theorem extract_toNat (w : Word) (k n : Nat) : (w.extractLsb' k n).toNat = w.toNat / 2 ^ k % 2 ^ n := by
  rw [BitVec.extractLsb'_toNat, Nat.shiftRight_eq_div_pow]

/-- Settles O44: every field is read off STATUS as a number. -/
theorem statusReadsItsFields : Obligations.StatusReadsItsFields := by
  intro s rest hhost
  obtain ⟨t, hstep, hdata⟩ := step_read_answer hhost rfl
  have hword := statusWord_toNat s
  have herr := (errNumber s.err).isLt
  have hkey := s.keyValid.toNat_le
  have hctr := s.ctrValid.toNat_le
  have hsticky := s.sticky.toNat_le
  have hcursor := s.cursor.isLt
  have hnr := (nrField s).isLt
  have hovf := (ovfNumber s.params.ctrOverflow).isLt
  refine ⟨t, statusWord s, hstep, hdata, ?_, ?_, ?_, ?_, ?_, ?_, ?_, ?_, ?_, ?_⟩
  · have : ((statusWord s).extractLsb' 0 4).toNat = (errNumber s.err).toNat := by rw [extract_toNat]; omega
    rw [this]
    cases s.err <;> rfl
  · exact getLsbD_eq_of_toNat (by omega)
  · exact getLsbD_eq_of_toNat (by omega)
  · exact getLsbD_eq_of_toNat (by omega)
  · exact getLsbD_eq_of_toNat (by rw [Bool.toNat_false]; omega)
  · rw [extract_toNat]; omega
  · exact BitVec.eq_of_toNat_eq (by rw [extract_toNat]; change _ = 0; omega)
  · change _ = nrField s
    exact BitVec.eq_of_toNat_eq (by rw [extract_toNat]; omega)
  · have : ((statusWord s).extractLsb' 20 2).toNat = (ovfNumber s.params.ctrOverflow).toNat := by
      rw [extract_toNat]; omega
    rw [this]
    cases s.params.ctrOverflow <;> rfl
  · exact BitVec.eq_of_toNat_eq (by rw [extract_toNat]; change _ = 0; omega)

/-! ## Commands, idling and reset -/

/-- Settles O5: the event leaves the list, the epoch moves on, and CMD takes the word. -/
theorem stepRunsDecodedCommand : Obligations.StepRunsDecodedCommand := by
  intro s v rest i hhost hdecode
  rw [step_cons hhost, perform_issue, runCommand, hdecode]
  rfl

/-- Settles O51, the case of a step without an event. -/
theorem idleCoreHoldsItsState : Obligations.IdleCoreHoldsItsState := fun _ => step_nil

/-- Settles O52 by R50's values, as State.resetWith gives them for any parameters. -/
theorem resetGivesTheResetValues : Obligations.ResetGivesTheResetValues := by
  have hnonce : ∀ i : Fin 3, (Vector.replicate 3 (0 : Word))[i] = 0 := fun i => Vector.getElem_replicate i.isLt
  have hkey : ∀ i : Fin 8, (Vector.replicate 8 (0 : Word))[i] = 0 := fun i => Vector.getElem_replicate i.isLt
  refine ⟨fun s rest hhost => ⟨_, step_cons hhost, rfl, rfl, rfl, rfl, rfl, rfl, rfl, rfl, rfl, rfl, hnonce, hkey,
    rfl, rfl, rfl⟩, fun p => ⟨rfl, rfl, rfl, rfl, rfl, rfl, rfl, rfl, rfl, rfl, hnonce, hkey, rfl, rfl⟩⟩

/-- Settles O53: the default parameters are legal, and no key is there to match. -/
theorem invariantsHoldAtReset : Obligations.InvariantsHoldAtReset :=
  ⟨(State.inv_iff _).2 ⟨by decide, rfl, rfl, (dmemLegal_iff _).2 (dmemInit_of_paramsLegal (by decide))⟩,
   rfl⟩

end Sys2Proof.Machine
end

section
/-! PROOF. Who reads the KEY and NONCE registers (R37, R38, R160): every command runs alike with other words in them,
KEY_EXPAND and CTR_LOAD if the words they read are the same. -/

namespace Sys2Proof.Machine

/-- s with other words in the KEY and NONCE registers. -/
def State.withSecrets (s : State) (k : Vector Word 8) (x : Vector Word 3) : State := { s with key := k, nonce := x }

theorem keyWords_congr {s u : State} {nk : Nat} (h : ∀ i < nk, s.key.getD i 0 = u.key.getD i 0) :
    keyWords s nk = keyWords u nk := by
  have hmap : (List.range nk).map (keyWord s) = (List.range nk).map (keyWord u) :=
    List.map_congr_left fun i hi => by rw [keyWord_eq, keyWord_eq, h i (List.mem_range.1 hi)]
  rw [keyWords, keyWords, hmap]

theorem loadedCtr_congr {s u : State} (hnonce : s.nonce = u.nonce) (hlo : s.seedLo = u.seedLo) :
    loadedCtr s = loadedCtr u := by
  simp only [loadedCtr, nonceByte, hnonce, hlo]

theorem expandKey_withSecrets {s : State} {k : Vector Word 8} {nk : Nat} (x : Vector Word 3)
    (h : ∀ i < nk, k.getD i 0 = s.key.getD i 0) :
    expandKey nk (s.withSecrets k x) = (expandKey nk s).withSecrets k x := by
  have hwords : keyWords (s.withSecrets k x) nk = keyWords s nk := keyWords_congr h
  rw [expandKey, expandKey, hwords]
  rfl

theorem consume_withSecrets (a : Nat) (s : State) (k : Vector Word 8) (x : Vector Word 3) :
    consume a (s.withSecrets k x) = (consume a s).withSecrets k x := by
  unfold consume
  by_cases hc : s.cursor.val < 16
  · rw [dif_pos hc, dif_pos (show (s.withSecrets k x).cursor.val < 16 from hc)]
    rfl
  · rw [dif_neg hc, dif_neg (show ¬(s.withSecrets k x).cursor.val < 16 from hc)]

theorem streamByte_withSecrets (a : Nat) (s : State) (k : Vector Word 8) (x : Vector Word 3) :
    streamByte a (s.withSecrets k x) = (streamByte a s).withSecrets k x := by
  unfold streamByte
  rw [← consume_withSecrets]
  by_cases hc : s.cursor.val = 16
  · rw [if_pos hc, if_pos (show (s.withSecrets k x).cursor.val = 16 from hc)]
    rfl
  · rw [if_neg hc, if_neg (show ¬(s.withSecrets k x).cursor.val = 16 from hc)]

theorem streamBytes_withSecrets (a n : Nat) (s : State) (k : Vector Word 8) (x : Vector Word 3) :
    streamBytes a n (s.withSecrets k x) = (streamBytes a n s).withSecrets k x := by
  induction n with
  | zero => rfl
  | succ n ih => rw [streamBytes_succ, streamBytes_succ, ih, streamByte_withSecrets]

/-- t is s but for the words in the KEY and NONCE registers, which are k and x. -/
def HoldsSecrets (k : Vector Word 8) (x : Vector Word 3) (s t : State) : Prop := t = s.withSecrets k x

section
variable {k : Vector Word 8} {x : Vector Word 3}

/-- A check of a command that raises an error, and then the rest of the command. -/
theorem check_withSecrets {c : Prop} [Decidable c] {e : ErrorCode} {s : State} {a b : Result}
    (hab : ¬c → BothAnswer (HoldsSecrets k x) a b) :
    BothAnswer (HoldsSecrets k x) (if c then raiseError e s else a)
      (if c then raiseError e (s.withSecrets k x) else b) :=
  .ite (fun _ => .next rfl) hab

theorem succeed_withSecrets (s : State) :
    BothAnswer (HoldsSecrets k x) (succeed s) (succeed (s.withSecrets k x)) := .next rfl

theorem blockCommand_withSecrets (f : Block → Block) (s : State) :
    BothAnswer (HoldsSecrets k x) (blockCommand f s) (blockCommand f (s.withSecrets k x)) :=
  check_withSecrets fun _ => check_withSecrets fun _ => check_withSecrets fun _ => succeed_withSecrets (transformAt f s)

theorem execCtrInc_withSecrets (s : State) :
    BothAnswer (HoldsSecrets k x) (execCtrInc s) (execCtrInc (s.withSecrets k x)) := by
  refine check_withSecrets fun _ => ?_
  change BothAnswer (HoldsSecrets k x) _ (match increment s.params.ctrOverflow s.ctr with
    | none => _
    | some b => succeed ((s.setCtr b).withSecrets k x))
  cases increment s.params.ctrOverflow s.ctr with
  | none => exact .next rfl
  | some b => exact succeed_withSecrets (s.setCtr b)

theorem execStreamApply_withSecrets (s : State) :
    BothAnswer (HoldsSecrets k x) (execStreamApply s) (execStreamApply (s.withSecrets k x)) := by
  refine check_withSecrets fun _ => check_withSecrets fun _ => check_withSecrets fun _ => check_withSecrets fun _ =>
    check_withSecrets fun _ => ?_
  rw [streamBytes_withSecrets]
  exact succeed_withSecrets _

/-- A command runs alike with other KEY and NONCE words, KEY_EXPAND and CTR_LOAD with the words they read the same. -/
theorem exec_withSecrets (i : Instr) (s : State)
    (hkey : ∀ n, i = .keyExpand n → n = 16 ∨ n = 24 ∨ n = 32 → ∀ j < n / 4, k.getD j 0 = s.key.getD j 0)
    (hnonce : ∀ n, i = .ctrLoad n → x = s.nonce) :
    BothAnswer (HoldsSecrets k x) (exec i s) (exec i (s.withSecrets k x)) := by
  cases i with
  | keyExpand n =>
    refine check_withSecrets fun _ => check_withSecrets fun hn => ?_
    rw [expandKey_withSecrets x (hkey n rfl (by omega))]
    exact succeed_withSecrets _
  | blockEnc => exact blockCommand_withSecrets (encryptBlock s) s
  | blockDec => exact blockCommand_withSecrets (decryptBlock s) s
  | ctrLoad n =>
    refine check_withSecrets fun _ => check_withSecrets fun _ => ?_
    rw [loadedCtr_congr (s := s.withSecrets k x) (u := s) (hnonce n rfl) rfl]
    exact succeed_withSecrets (s.loadCtr (loadedCtr s))
  | ctrSetval =>
    exact check_withSecrets fun _ => check_withSecrets fun _ =>
      succeed_withSecrets (s.setCtr (setSuffix s.ctr s.seedLo))
  | ctrSetbytes =>
    exact check_withSecrets fun _ => check_withSecrets fun _ =>
      succeed_withSecrets (s.loadCtr (Memory.readBlock s.dmem s.addr.toNat))
  | ctrInc => exact execCtrInc_withSecrets s
  | ctrClone =>
    exact check_withSecrets fun _ => check_withSecrets fun _ =>
      succeed_withSecrets (s.setDmem (Memory.writeBlock s.dmem s.addr.toNat s.ctr))
  | streamReset => exact succeed_withSecrets (s.setCursor 16)
  | streamApply => exact execStreamApply_withSecrets s

end

/-- A command's outcome holds the KEY and NONCE words the command found. -/
theorem exec_keepsSecrets {i : Instr} {s t : State} (h : exec i s = .next t) : t.key = s.key ∧ t.nonce = s.nonce := by
  rcases exec_cases h with ⟨e, _, rfl⟩ | heffect
  · exact ⟨rfl, rfl⟩
  · obtain ⟨_, _, _, _, _, hnonce, hkey, _⟩ := effect_frame heffect
    exact ⟨hkey, hnonce⟩

/-- Replacing the KEY registers alone, with the words a KEY_EXPAND reads the same. -/
theorem exec_withKey {i : Instr} (s : State) {k : Vector Word 8}
    (hkey : ∀ n, i = .keyExpand n → ∀ j : Fin 8, 4 * j.val < n → k[j] = s.key[j]) :
    ∃ t, exec i s = .next t ∧ exec i { s with key := k } = .next { t with key := k } := by
  have hread : ∀ n, i = .keyExpand n → n = 16 ∨ n = 24 ∨ n = 32 → ∀ j < n / 4, k.getD j 0 = s.key.getD j 0 := by
    intro n hi hn j hj
    have hj8 : j < 8 := by omega
    have hword : k[j] = s.key[j] := hkey n hi ⟨j, hj8⟩ (show 4 * j < n by omega)
    simpa [Vector.getD, Array.getD, hj8] using hword
  obtain ⟨t, _, ht, ht', rfl⟩ := exec_withSecrets (k := k) (x := s.nonce) i s hread fun _ _ => rfl
  obtain ⟨_, hnonce⟩ := exec_keepsSecrets ht
  exact ⟨t, ht, ht'.trans (by rw [State.withSecrets, ← hnonce])⟩

/-- Settles O42: no check and no effect reads these registers but KEY_EXPAND's and CTR_LOAD's. -/
theorem keyAndNonceAreReadOnlyByTheirCommands : Obligations.KeyAndNonceAreReadOnlyByTheirCommands := by
  refine ⟨fun i s k hi => exec_withKey s fun n h => absurd h (hi n), fun n s k hk => exec_withKey s ?_,
    fun i s x hi => ?_⟩
  · rintro _ ⟨⟩
    exact hk
  · obtain ⟨t, _, ht, ht', rfl⟩ := exec_withSecrets (k := s.key) (x := x) i s (fun _ _ _ _ _ => rfl)
      fun n h => absurd h (hi n)
    obtain ⟨hkey, _⟩ := exec_keepsSecrets ht
    exact ⟨t, ht, ht'.trans (by rw [State.withSecrets, ← hkey])⟩

end Sys2Proof.Machine
end

section
/-! PROOF. Bytes 0..11 of the counter (R44, C2): an increment changes them only by a carry out of the suffix, and a
stream of increments only by one that passes suffix 2^32 - 1. -/

namespace Sys2Proof.Machine

/-! ## One increment -/

/-- The big-endian number of the k bytes of a block from byte a on. -/
def spanNat (b : Block) (a : Nat) : Nat → Nat
  | 0 => 0
  | k + 1 => 256 * spanNat b a k + (b.getD (a + k) 0).toNat

theorem block_getD_of_lt (b : Block) {j : Nat} (hj : j < 16) : b.getD j 0 = b[j] := by
  simp [Vector.getD, Array.getD, hj]

theorem block_getD_set (b : Block) (n j : Nat) (x : Byte) (hn : n < 16) :
    (b.setIfInBounds n x).getD j 0 = if j = n then x else b.getD j 0 := by
  by_cases hj : j < 16
  · rw [block_getD_of_lt _ hj, block_getD_of_lt _ hj, Vector.getElem_setIfInBounds]
    simp [eq_comm]
  · have hne : j ≠ n := by omega
    simp [Vector.getD, Array.getD, hj, hne]

theorem spanNat_congr {b c : Block} {a k : Nat} (h : ∀ j < k, b.getD (a + j) 0 = c.getD (a + j) 0) :
    spanNat b a k = spanNat c a k := by
  induction k with
  | zero => rfl
  | succ k ih => rw [spanNat, spanNat, h k (by omega), ih fun j hj => h j (by omega)]

/-- An increment that does not wrap. -/
theorem toNat_succ_of_lt {n : Nat} {x : BitVec n} (h : x.toNat + 1 < 2 ^ n) : (x + 1).toNat = x.toNat + 1 := by
  rw [BitVec.toNat_add, BitVec.ofNat_eq_ofNat, BitVec.toNat_ofNat, Nat.add_mod_mod, Nat.mod_eq_of_lt h]

/-- The carry loop starts below byte n, so it leaves the bytes from n on (R201). -/
theorem carryFrom_getD_of_ge (b : Block) {n j : Nat} (hn : n ≤ 16) (hj : n ≤ j) :
    (carryFrom b n).getD j 0 = b.getD j 0 := by
  induction n generalizing b with
  | zero => rfl
  | succ n ih =>
    have hne : j ≠ n := by omega
    rw [carryFrom]
    split
    · rw [ih _ (by omega) (by omega), block_getD_set _ _ _ _ (by omega), if_neg hne]
    · rw [block_getD_set _ _ _ _ (by omega), if_neg hne]

/-- While the k bytes below byte a + k are not all 0xFF, the carry stops among them: their number goes up by one and the
bytes below a stay. -/
theorem carryFrom_span (b : Block) {a k : Nat} (hk : a + k ≤ 16) (hroom : spanNat b a k + 1 < 256 ^ k) :
    spanNat (carryFrom b (a + k)) a k = spanNat b a k + 1
      ∧ ∀ j < a, (carryFrom b (a + k)).getD j 0 = b.getD j 0 := by
  induction k generalizing b with
  | zero => simp [spanNat] at hroom
  | succ k ih =>
    have hbyte := (b.getD (a + k) 0).isLt
    have hlow : ∀ x j, j < a + k → (b.setIfInBounds (a + k) x).getD j 0 = b.getD j 0 := fun x j hj => by
      rw [block_getD_set _ _ _ _ (by omega), if_neg (by omega)]
    rw [← Nat.add_assoc, carryFrom]
    rw [spanNat, pow_succ] at hroom
    split
    · next hmax =>
      have hspan : spanNat (b.setIfInBounds (a + k) 0) a k = spanNat b a k :=
        spanNat_congr fun j hj => hlow 0 _ (by omega)
      have h255 : (b.getD (a + k) 0).toNat = 255 := by rw [hmax]; rfl
      obtain ⟨ihspan, ihlow⟩ := ih (b.setIfInBounds (a + k) 0) (by omega) (by omega)
      refine ⟨?_, fun j hj => by rw [ihlow j hj, hlow 0 j (by omega)]⟩
      rw [spanNat, ihspan, hspan, carryFrom_getD_of_ge _ (by omega) (Nat.le_refl _), block_getD_set _ _ _ _ (by omega),
        if_pos rfl, spanNat, h255]
      rfl
    · next hmax =>
      refine ⟨?_, fun j hj => hlow _ j (by omega)⟩
      have hlt : (b.getD (a + k) 0).toNat ≠ 255 := fun h => hmax (BitVec.eq_of_toNat_eq h)
      have hnowrap := toNat_succ_of_lt (x := b.getD (a + k) 0) (by omega)
      rw [spanNat, spanNat_congr fun j hj => hlow _ (a + j) (by omega), block_getD_set _ _ _ _ (by omega), if_pos rfl,
        hnowrap, spanNat, Nat.add_assoc]

/-- The suffix is the number of bytes 12..15 (R200). -/
theorem suffix_toNat (b : Block) : (suffix b).toNat = spanNat b 12 4 := by
  have hpack : (suffix b).toNat = (b[12] ++ b[13] ++ b[14] ++ b[15]).toNat := rfl
  have h12 : b.getD 12 0 = b[12] := block_getD_of_lt b (by decide)
  have h13 : b.getD 13 0 = b[13] := block_getD_of_lt b (by decide)
  have h14 : b.getD 14 0 = b[14] := block_getD_of_lt b (by decide)
  have h15 : b.getD 15 0 = b[15] := block_getD_of_lt b (by decide)
  simp only [hpack, toNat_append_eq, spanNat, h12, h13, h14, h15]
  omega

theorem suffix_setSuffix (b : Block) (v : Word) : suffix (setSuffix b v) = v := by
  simp [suffix, blockWord, setSuffix]

/-- Bytes 0..11, the nonce part, are the same in both blocks. -/
def NonceKept (b c : Block) : Prop := ∀ j < 12, c.getD j 0 = b.getD j 0

theorem setSuffix_nonceKept (b : Block) (v : Word) : NonceKept b (setSuffix b v) := by
  intro j hj
  have hj16 : j < 16 := by omega
  rw [block_getD_of_lt _ hj16, block_getD_of_lt _ hj16]
  simp [setSuffix, hj]

/-- Below the maximal suffix every policy adds one to the suffix and keeps the nonce part (R201). -/
theorem increment_of_room (o : CtrOverflow) {b : Block} (hroom : (suffix b).toNat + 1 < 2 ^ 32) :
    ∃ c, increment o b = some c ∧ (suffix c).toNat = (suffix b).toNat + 1 ∧ NonceKept b c := by
  have hset : (suffix (setSuffix b (suffix b + 1))).toNat = (suffix b).toNat + 1 := by
    rw [suffix_setSuffix, toNat_succ_of_lt hroom]
  cases o with
  | carry128 =>
    rw [suffix_toNat] at hroom
    obtain ⟨hspan, hlow⟩ := carryFrom_span b (a := 12) (k := 4) (by decide) hroom
    exact ⟨_, rfl, by rw [suffix_toNat, suffix_toNat, hspan], hlow⟩
  | suffix32 => exact ⟨_, rfl, hset, setSuffix_nonceKept b _⟩
  | fault =>
    have hmax : suffix b ≠ 0xFFFFFFFF := fun h => by rw [h] at hroom; exact absurd hroom (by decide)
    exact ⟨_, if_neg hmax, hset, setSuffix_nonceKept b _⟩

/-- Only CARRY128 can change the nonce part. -/
theorem increment_nonceKept {o : CtrOverflow} {b c : Block} (h : increment o b = some c)
    (hroom : o = .carry128 → (suffix b).toNat + 1 < 2 ^ 32) : NonceKept b c := by
  cases o with
  | carry128 =>
    obtain ⟨d, hd, _, hkept⟩ := increment_of_room .carry128 (hroom rfl)
    obtain rfl := Option.some.inj (hd.symm.trans h)
    exact hkept
  | suffix32 =>
    cases h
    exact setSuffix_nonceKept b _
  | fault =>
    simp only [increment] at h
    split at h
    · cases h
    · cases h
      exact setSuffix_nonceKept b _

/-! ## A stream of increments -/

theorem advance_nonceKept {o : CtrOverflow} {b : Block} (hroom : o = .carry128 → (suffix b).toNat + 1 < 2 ^ 32) :
    NonceKept b (advance o b) := by
  cases hinc : increment o b with
  | none => simp [advance, hinc, NonceKept]
  | some c => simpa [advance, hinc] using increment_nonceKept hinc hroom

theorem suffix_advance (o : CtrOverflow) {b : Block} (hroom : (suffix b).toNat + 1 < 2 ^ 32) :
    (suffix (advance o b)).toNat = (suffix b).toNat + 1 := by
  obtain ⟨c, hinc, hsuffix, _⟩ := increment_of_room o hroom
  simpa [advance, hinc] using hsuffix

theorem suffix_incTimes (o : CtrOverflow) {n : Nat} {b : Block} (hroom : (suffix b).toNat + n < 2 ^ 32) :
    (suffix (incTimes o n b)).toNat = (suffix b).toNat + n := by
  induction n with
  | zero => rfl
  | succ n ih =>
    have hn := ih (by omega)
    rw [incTimes, suffix_advance o (by omega), hn, Nat.add_assoc]

/-- n increments none of which passes the maximal suffix keep the nonce part. -/
theorem incTimes_nonceKept {o : CtrOverflow} {n : Nat} {b : Block}
    (hroom : o = .carry128 → (suffix b).toNat + n < 2 ^ 32) : NonceKept b (incTimes o n b) := by
  induction n with
  | zero => exact fun _ _ => rfl
  | succ n ih =>
    have hkept := ih fun ho => by have := hroom ho; omega
    have hlast : NonceKept (incTimes o n b) (advance o (incTimes o n b)) := advance_nonceKept fun ho => by
      have := hroom ho
      rw [suffix_incTimes o (by omega)]
      omega
    exact fun j hj => (hlast j hj).trans (hkept j hj)

/-- One byte of the stream moves CURSOR on by one, after a refill that increments the counter when none is left. -/
theorem streamByte_counter (a : Nat) (s : State) :
    (s.cursor.val = 16 ∧ (streamByte a s).ctr = advance s.params.ctrOverflow s.ctr ∧ (streamByte a s).cursor.val = 1)
      ∨ (s.cursor.val < 16 ∧ (streamByte a s).ctr = s.ctr ∧ (streamByte a s).cursor.val = s.cursor.val + 1) := by
  by_cases hc : s.cursor.val = 16
  · rw [streamByte, if_pos hc]
    exact .inl ⟨hc, rfl, rfl⟩
  · have hlt : s.cursor.val < 16 := by omega
    rw [streamByte, if_neg hc, consume, dif_pos hlt]
    exact .inr ⟨hlt, rfl, rfl⟩

/-- n bytes of the stream make k refills, where 16 k plus the new CURSOR is the old CURSOR plus n (R232). -/
theorem streamBytes_counter (a n : Nat) (s : State) :
    ∃ k, (streamBytes a n s).ctr = incTimes s.params.ctrOverflow k s.ctr
      ∧ 16 * k + (streamBytes a n s).cursor.val = s.cursor.val + n
      ∧ (0 < k → 0 < (streamBytes a n s).cursor.val) := by
  induction n with
  | zero => exact ⟨0, rfl, by simp [streamBytes], by simp⟩
  | succ n ih =>
    obtain ⟨k, hctr, hcursor, hpos⟩ := ih
    have hparams : (streamBytes a n s).params = s.params := (streamBytes_fields a n s).1
    rw [streamBytes_succ]
    rcases streamByte_counter (a + n) (streamBytes a n s) with ⟨hfull, hctr', hcursor'⟩ | ⟨_, hctr', hcursor'⟩
    · exact ⟨k + 1, by rw [hctr', hctr, hparams, incTimes], by omega, by omega⟩
    · exact ⟨k, by rw [hctr', hctr], by omega, by omega⟩

/-- The counter after n bytes of the stream: one increment per keystream block (R234). -/
theorem streamBytes_ctr (a n : Nat) (s : State) :
    (streamBytes a n s).ctr = incTimes s.params.ctrOverflow ((s.cursor.val + n - 16 + 15) / 16) s.ctr := by
  obtain ⟨k, hctr, hcursor, hpos⟩ := streamBytes_counter a n s
  have hk : (s.cursor.val + n - 16 + 15) / 16 = k := by omega
  rw [hctr, hk]

/-! ## Every command -/

/-- A carry out of the suffix in the course of command i at s. -/
def CarriesOut (i : Instr) (s : State) : Prop :=
  s.params.ctrOverflow = .carry128
    ∧ ((i = .ctrInc ∧ (suffix s.ctr).toNat = 2 ^ 32 - 1)
      ∨ (i = .streamApply ∧ 2 ^ 32 ≤ (suffix s.ctr).toNat + (s.cursor.val + s.len.toNat - 16 + 15) / 16))

theorem effect_nonceKept {i : Instr} {s t : State} (h : Effect i s t) :
    (∃ n, i = .ctrLoad n) ∨ i = .ctrSetbytes ∨ CarriesOut i s ∨ NonceKept s.ctr t.ctr := by
  rcases effect_counter h with hload | hbytes | ⟨rfl | rfl | rfl, _⟩ | ⟨hctr, _⟩
  · exact .inl hload
  · exact .inr (.inl hbytes)
  · obtain ⟨_, _, rfl⟩ := h
    exact .inr (.inr (.inr (setSuffix_nonceKept s.ctr s.seedLo)))
  · obtain ⟨_, b, hinc, rfl⟩ := h
    refine .inr (.inr (or_iff_not_imp_left.2 fun hcarry => increment_nonceKept hinc fun ho => ?_))
    have hmax : (suffix s.ctr).toNat ≠ 2 ^ 32 - 1 := fun hm => hcarry ⟨ho, .inl ⟨rfl, hm⟩⟩
    omega
  · obtain ⟨_, _, _, _, _, rfl⟩ := h
    refine .inr (.inr (or_iff_not_imp_left.2 fun hcarry => ?_))
    rw [State.complete_ctr, streamBytes_ctr]
    exact incTimes_nonceKept fun ho => Nat.not_le.1 fun hm => hcarry ⟨ho, .inr ⟨rfl, hm⟩⟩
  · exact .inr (.inr (.inr fun _ _ => by rw [hctr]))

/-- Settles O40: an error keeps the counter, and a changed byte below 12 leaves only the load and the carry. -/
theorem noncePartChangesOnlyByLoadOrCarry : Obligations.NoncePartChangesOnlyByLoadOrCarry := by
  intro i s t j hexec hj hchange
  have hnot : ¬NonceKept s.ctr t.ctr := fun hkept => by
    have hbyte := hkept j.val hj
    rw [block_getD_of_lt _ j.isLt, block_getD_of_lt _ j.isLt] at hbyte
    exact hchange hbyte
  rcases exec_cases hexec with ⟨e, _, rfl⟩ | heffect
  · exact absurd (fun _ _ => rfl) hnot
  · rcases effect_nonceKept heffect with hload | hbytes | hcarry | hkept
    · exact .inl hload
    · exact .inr (.inl hbytes)
    · exact .inr (.inr hcarry)
    · exact absurd hkept hnot

end Sys2Proof.Machine
end

section
/-! PROOF. Data memory and the port's transactions (R71, R74 to R77): which accesses are answered, that a read leaves
the core as it was, that the window is big-endian, and which bytes of DMEM an access can change. -/

namespace Sys2Proof.Machine

/-! ## Answered and refused accesses -/

/-- A write is answered whatever the register, and at CMD whatever the command word (R74, R303). -/
theorem hostWrite_answers (off : Nat) (v : Word) (s : State) : ∃ t, hostWrite off v s = .next t := by
  obtain ⟨t, _, ht, _⟩ := hostWrite_agree off v (specifiedAgree_refl s)
  exact ⟨t, ht⟩

theorem checkAccess_of_aligned {width off : Nat} (hw : width = 32) (ho : off % 4 = 0) (go : Result) :
    checkAccess width off go = go := by
  simp [checkAccess, hw, ho]

/-- Reads and writes pass the same check of width and alignment. -/
theorem perform_access {e : HostEvent} {width off : Nat} (h : e = .read width off ∨ ∃ v, e = .write width off v)
    (s : State) : ∃ go, perform e s = checkAccess width off go := by
  rcases h with rfl | ⟨v, rfl⟩
  · exact ⟨_, rfl⟩
  · exact ⟨_, rfl⟩

theorem perform_answers {e : HostEvent} (h : inInterface e = true) (s : State) : ∃ t, perform e s = .next t := by
  cases e with
  | read width off =>
    obtain ⟨hw, ho⟩ := of_decide_eq_true h
    exact ⟨_, checkAccess_of_aligned hw ho _⟩
  | write width off v =>
    obtain ⟨hw, ho⟩ := of_decide_eq_true h
    obtain ⟨t, ht⟩ := hostWrite_answers off v s
    exact ⟨t, (checkAccess_of_aligned hw ho _).trans ht⟩
  | reset => exact ⟨_, perform_reset s⟩

/-- Settles O10, by the cases of the check that every access passes (R75). -/
theorem interfaceAccessesAreAnswered : Obligations.InterfaceAccessesAreAnswered := by
  intro s e rest hhost
  rw [step_cons hhost]
  refine ⟨fun hin => perform_answers hin _, fun width off haccess => ?_⟩
  obtain ⟨go, hgo⟩ := perform_access haccess (s.takeEvent rest)
  rw [hgo]
  rcases checkAccess_cases width off go with ⟨hw, ho, _⟩ | ⟨hw, e⟩ | ⟨hw, _, e⟩
  · exact ⟨fun hw' => absurd hw hw', fun _ ho' => absurd ho ho'⟩
  · exact ⟨fun _ => e, fun hw' => absurd hw' hw⟩
  · exact ⟨fun hw' => absurd hw hw', fun _ _ => e⟩

/-! ## Reads -/

/-- Only a register without a value of its own shows the draw count; none shows the list of events or readData. -/
theorem readValue_of_not_drawsFree {s : State} {off : Nat} (h : drawsFree (portReg s.params.dmemBytes off) = false)
    (host : List HostEvent) (data : Option Word) (draws : Nat) :
    readValue { s with host := host, readData := data, draws := draws } off = readValue s off := by
  unfold readValue
  dsimp only
  cases hr : portReg s.params.dmemBytes off with
  | cmd | reserved | unmapped => rw [hr] at h; cases h
  | _ => rfl

theorem drawsFree_eq_false {r : PortReg} (hcmd : r ≠ .cmd) (hreserved : r ≠ .reserved) (hunmapped : r ≠ .unmapped) :
    drawsFree r = false := by
  cases r with
  | cmd => exact absurd rfl hcmd
  | reserved => exact absurd rfl hreserved
  | unmapped => exact absurd rfl hunmapped
  | _ => rfl

/-- Settles O43: the answer of a read is a function of what reads do not change. -/
theorem readsHaveNoSideEffects : Obligations.ReadsHaveNoSideEffects := by
  refine ⟨fun s off rest hhost halign => ⟨_, _, step_read hhost halign⟩, ?_⟩
  intro s t u x off rest more hs ht halign hagree hcmd hreserved hunmapped hu hx
  have hvalue : readValue t off = readValue s off := by
    rw [hagree]
    exact readValue_of_not_drawsFree (drawsFree_eq_false hcmd hreserved hunmapped) _ _ _
  cases (step_read hs halign).symm.trans hu
  cases (step_read ht halign).symm.trans hx
  exact congrArg some hvalue

/-! ## The window -/

theorem wordBytes_getD (v : Word) {k : Nat} (hk : k < 4) : (wordBytes v).getD k 0 = byteOf v (3 - k) := by
  interval_cases k <;> rfl

/-- The bytes of a word written at a. -/
theorem Memory.read_writeWord_inside (m : Memory) (a : Nat) (v : Word) {k : Nat} (hk : k < 4) :
    Memory.read (Memory.writeWord m a v) (a + k) = byteOf v (3 - k) := by
  rw [Memory.writeWord, Memory.read_writeBytes, wordBytes_length, if_pos (by omega), Nat.add_sub_cancel_left,
    wordBytes_getD v hk]

/-- Every byte outside a word written at a. -/
theorem Memory.read_writeWord_outside (m : Memory) {a b : Nat} (v : Word) (hb : b < a ∨ a + 4 ≤ b) :
    Memory.read (Memory.writeWord m a v) b = Memory.read m b := by
  rw [Memory.writeWord, Memory.read_writeBytes, wordBytes_length, if_neg (by omega)]

/-- Settles O48 by the two transactions of a window word and the bytes a word write leaves. -/
theorem dmemWindowIsBigEndian : Obligations.DmemWindowIsBigEndian := by
  intro s a rest ha hn
  refine ⟨fun hhost => ⟨_, step_read_window hhost ha hn, rfl⟩, fun v hhost => ?_⟩
  exact ⟨_, step_write_window hhost ha hn, fun k hk => Memory.read_writeWord_inside s.dmem a v hk,
    fun b hb => Memory.read_writeWord_outside s.dmem v hb, rfl⟩

/-! ## Which accesses change a byte -/

/-- A byte that a command's effect changes lies in the command's range at ADDR. -/
theorem effect_dmem_range {i : Instr} {s t : State} {b : Nat} (h : Effect i s t)
    (hchange : Memory.read t.dmem b ≠ Memory.read s.dmem b) :
    s.addr.toNat ≤ b
      ∧ (((i = .blockEnc ∨ i = .blockDec ∨ i = .ctrClone) ∧ b < s.addr.toNat + 16)
        ∨ (i = .streamApply ∧ b < s.addr.toNat + s.len.toNat)) := by
  rcases effect_dmem h with hkept | ⟨_, hi, x, hblock⟩ | ⟨_, hi, hstream⟩
  · exact absurd (by rw [hkept]) hchange
  · have hin : ¬(b < s.addr.toNat ∨ s.addr.toNat + 16 ≤ b) := fun hout =>
      hchange (by rw [hblock, Memory.read_writeBlock_outside _ _ _ _ hout])
    exact ⟨by omega, .inl ⟨hi, by omega⟩⟩
  · have hin : ¬(b < s.addr.toNat ∨ s.addr.toNat + s.len.toNat ≤ b) := fun hout =>
      hchange (by rw [hstream, streamBytes_read_outside _ _ _ _ hout])
    exact ⟨by omega, .inr ⟨hi, by omega⟩⟩

/-- A byte that a register write changes lies in the window word at its offset. -/
theorem writeReg_dmem_range {n off b : Nat} {v : Word} {s : State}
    (hchange : Memory.read (writeReg (portReg n off) v s).dmem b ≠ Memory.read s.dmem b) :
    0x1000 + b < off + 4 ∧ off ≤ 0x1000 + b := by
  by_cases hwindow : ∃ a, portReg n off = .dmem a
  · obtain ⟨a, ha⟩ := hwindow
    obtain ⟨hoff, _⟩ := portReg_eq_dmem ha
    have hin : ¬(b < a ∨ a + 4 ≤ b) := fun hout =>
      hchange (by rw [ha]; exact Memory.read_writeWord_outside s.dmem v hout)
    omega
  · exact absurd (by rw [writeReg_dmem_of_not_window (not_exists.1 hwindow)]) hchange

/-- Settles O39, by the cases of what a step can do. -/
theorem dmemChangesOnlyWhereWritten : Obligations.DmemChangesOnlyWhereWritten := by
  intro s t b hstep hchange
  rcases step_cases hstep with ⟨_, rfl⟩ | ⟨off, rest, _, _, rfl⟩ | ⟨off, v, rest, hhost, _, hcmd, hrun⟩
    | ⟨off, v, rest, hhost, _, _, rfl⟩ | ⟨rest, hhost, _⟩
  · exact absurd rfl hchange
  · exact absurd rfl hchange
  · obtain rfl := portReg_eq_cmd hcmd
    rcases runCommand_effect hrun with ⟨e, _, rfl⟩ | ⟨i, hdecode, heffect⟩
    · exact absurd rfl hchange
    · have hrange := effect_dmem_range heffect (b := b) (by simpa using hchange)
      exact .inr (.inr ⟨v, i, rest, hhost, hdecode, heffect.err, by simpa using hrange⟩)
  · exact .inr (.inl ⟨off, v, rest, hhost, writeReg_dmem_range (s := (s.takeEvent rest).nextEpoch) hchange⟩)
  · exact .inl ⟨rest, hhost⟩

end Sys2Proof.Machine
end

section
/-! PROOF. The decoder and the encoder (R100 to R107): a word decodes to a command exactly when its three fields are
that command's, which settles both round trips, the illegal words of R104, and the sample words. -/

namespace Sys2Proof.Machine

/-! ## What a word decodes to -/

theorem decodePlain_fields {i j : Instr} {op : BitVec 8} {imm : BitVec 6} (h : decodePlain j imm = .command i)
    (hop : op = opcode j) (hplain : immediate j = 0) : op = opcode i ∧ imm.toNat = immediate i := by
  unfold decodePlain at h
  split_ifs at h with himm
  cases h
  exact ⟨hop, by rw [himm, hplain]; rfl⟩

theorem decodeOp_fields {i : Instr} {op : BitVec 8} {imm : BitVec 6} (h : decodeOp op imm = .command i) :
    op = opcode i ∧ imm.toNat = immediate i := by
  unfold decodeOp at h
  split_ifs at h with h1 h2 h3 h4 h5 h6 h7 h8 h9 h10
  · cases h
    exact ⟨h1, rfl⟩
  · exact decodePlain_fields h h2 rfl
  · exact decodePlain_fields h h3 rfl
  · cases h
    exact ⟨h4, rfl⟩
  · exact decodePlain_fields h h5 rfl
  · exact decodePlain_fields h h6 rfl
  · exact decodePlain_fields h h7 rfl
  · exact decodePlain_fields h h8 rfl
  · exact decodePlain_fields h h9 rfl
  · exact decodePlain_fields h h10 rfl

theorem decodePlain_zero {imm : BitVec 6} (h : imm.toNat = 0) (i : Instr) : decodePlain i imm = .command i :=
  if_pos (BitVec.eq_of_toNat_eq h)

theorem decodeOp_opcode {i : Instr} {imm : BitVec 6} (h : imm.toNat = immediate i) :
    decodeOp (opcode i) imm = .command i := by
  cases i with
  | keyExpand keylen | ctrLoad nlen => subst h; rfl
  | _ => exact decodePlain_zero h _

/-- R105, as one equivalence: RSV is 0, OP is the command's opcode and IMM6 its immediate. -/
theorem decode_eq_command_iff (v : Word) (i : Instr) :
    decode v = .command i ↔ rsvField v = 0 ∧ opField v = opcode i ∧ (immField v).toNat = immediate i := by
  unfold decode
  split_ifs with hrsv
  · refine ⟨fun h => ⟨hrsv, decodeOp_fields h⟩, fun ⟨_, hop, himm⟩ => ?_⟩
    rw [hop]
    exact decodeOp_opcode himm
  · exact ⟨(nomatch ·), fun ⟨h, _⟩ => absurd h hrsv⟩

/-! ## The fields as numbers -/

theorem opField_toNat (v : Word) : (opField v).toNat = v.toNat % 2 ^ 8 := by
  rw [opField, extract_toNat, Nat.pow_zero, Nat.div_one]

theorem immField_toNat (v : Word) : (immField v).toNat = v.toNat / 2 ^ 8 % 2 ^ 6 := extract_toNat v 8 6

theorem rsvField_eq_zero_iff (v : Word) : rsvField v = 0 ↔ v.toNat / 2 ^ 14 = 0 := by
  have hfield : (rsvField v).toNat = v.toNat / 2 ^ 14 := by
    rw [rsvField, extract_toNat]
    have := v.isLt
    omega
  rw [← hfield]
  exact ⟨fun h => by rw [h]; rfl, BitVec.eq_of_toNat_eq (y := 0)⟩

theorem decode_eq_command_iff_toNat (v : Word) (i : Instr) :
    decode v = .command i ↔
      v.toNat / 2 ^ 14 = 0 ∧ v.toNat % 2 ^ 8 = (opcode i).toNat ∧ v.toNat / 2 ^ 8 % 2 ^ 6 = immediate i := by
  rw [decode_eq_command_iff, rsvField_eq_zero_iff, ← BitVec.toNat_inj (x := opField v), opField_toNat, immField_toNat]

/-- The word of a command as a number: IMM6 stands above OP (R100). -/
theorem encode_toNat (i : Instr) : (encode i).toNat = immediate i % 2 ^ 6 * 2 ^ 8 + (opcode i).toNat := by
  simp only [encode, toNat_append_eq, BitVec.toNat_ofNat, BitVec.ofNat_eq_ofNat]
  omega

theorem wellFormed_iff (i : Instr) : i.wellFormed = true ↔ immediate i < 2 ^ 6 := by
  cases i <;> simp [Instr.wellFormed, immediate]

/-! ## The round trips -/

theorem encodedFields (i : Instr) : Laws.EncodedFields.Statement i := by
  cases i with
  | keyExpand keylen => exact Laws.EncodedFields.keyExpand keylen
  | blockEnc => exact Laws.EncodedFields.blockEnc
  | blockDec => exact Laws.EncodedFields.blockDec
  | ctrLoad nlen => exact Laws.EncodedFields.ctrLoad nlen
  | ctrSetval => exact Laws.EncodedFields.ctrSetval
  | ctrSetbytes => exact Laws.EncodedFields.ctrSetbytes
  | ctrInc => exact Laws.EncodedFields.ctrInc
  | ctrClone => exact Laws.EncodedFields.ctrClone
  | streamReset => exact Laws.EncodedFields.streamReset
  | streamApply => exact Laws.EncodedFields.streamApply

/-- Settles O1: the fields of a well-formed command's word are the command's. -/
theorem decodeInvertsEncode : Obligations.DecodeInvertsEncode := fun i hwf =>
  (decode_eq_command_iff (encode i) i).2 (encodedFields i hwf)

/-- Settles O2: a word is determined by its three fields, and a 6-bit field is a well-formed immediate. -/
theorem encodeInvertsDecode : Obligations.EncodeInvertsDecode := by
  intro v i hdecode
  obtain ⟨hrsv, hop, himm⟩ := (decode_eq_command_iff_toNat v i).1 hdecode
  refine ⟨(wellFormed_iff i).2 (by omega), BitVec.eq_of_toNat_eq ?_⟩
  rw [encode_toNat]
  omega

/-- Settles O4: each word is decoded as it stands. -/
theorem sampleWordsDecode : Obligations.SampleWordsDecode := by
  unfold Obligations.SampleWordsDecode
  decide

/-! ## Illegal words -/

/-- The opcode map of R101: 1 to 10 are opcodes, and only 1 and 4 take an immediate. -/
theorem exists_opcode_immediate_iff (op imm : Nat) :
    (∃ i, op = (opcode i).toNat ∧ imm = immediate i) ↔ (1 ≤ op ∧ op ≤ 10) ∧ (imm = 0 ∨ op = 1 ∨ op = 4) := by
  constructor
  · rintro ⟨i, rfl, rfl⟩
    cases i <;> simp [opcode, immediate]
  · rintro ⟨⟨hlow, hhigh⟩, rfl | rfl | rfl⟩
    · interval_cases op
      · exact ⟨.keyExpand 0, rfl, rfl⟩
      · exact ⟨.blockEnc, rfl, rfl⟩
      · exact ⟨.blockDec, rfl, rfl⟩
      · exact ⟨.ctrLoad 0, rfl, rfl⟩
      · exact ⟨.ctrSetval, rfl, rfl⟩
      · exact ⟨.ctrSetbytes, rfl, rfl⟩
      · exact ⟨.ctrInc, rfl, rfl⟩
      · exact ⟨.ctrClone, rfl, rfl⟩
      · exact ⟨.streamReset, rfl, rfl⟩
      · exact ⟨.streamApply, rfl, rfl⟩
    · exact ⟨.keyExpand imm, rfl, rfl⟩
    · exact ⟨.ctrLoad imm, rfl, rfl⟩

theorem exists_illegal_iff (v : Word) : (∃ why, decode v = .illegal why) ↔ ¬∃ i, decode v = .command i := by
  cases decode v <;> simp

/-- A legal word in arithmetic: the complement of R104. -/
theorem exists_command_iff (v : Word) :
    (∃ i, decode v = .command i) ↔
      v.toNat / 2 ^ 14 = 0 ∧ (1 ≤ v.toNat % 2 ^ 8 ∧ v.toNat % 2 ^ 8 ≤ 10)
        ∧ (v.toNat / 2 ^ 8 % 2 ^ 6 = 0 ∨ v.toNat % 2 ^ 8 = 1 ∨ v.toNat % 2 ^ 8 = 4) := by
  simp only [decode_eq_command_iff_toNat, exists_and_left, exists_opcode_immediate_iff]

theorem step_illegal {s : State} {v : Word} {rest : List HostEvent} {why : IllegalWord}
    (hhost : s.host = issue v :: rest) (h : decode v = .illegal why) :
    step s = .next ((s.takeEvent rest).nextEpoch.raise .commandInvalid) := by
  rw [step_cons hhost, perform_issue, runCommand, h]
  rfl

/-- Settles O3: an illegal word is one that is no command's word, and its step is the raise. -/
theorem illegalWordsRaiseCommandInvalid : Obligations.IllegalWordsRaiseCommandInvalid := by
  refine ⟨fun v => ?_, fun s v rest why hhost h => step_illegal hhost h⟩
  rw [exists_illegal_iff, exists_command_iff]
  omega

end Sys2Proof.Machine
end

section
/-! PROOF. The byte strings of R111 through the window: wrbytes stores its string and rdbytes returns the bytes of DMEM,
each by induction on the words of the string, one transaction a word. -/

namespace Sys2Proof.Machine

/-! ## wrbytes -/

/-- The first word of a string goes to DMEM, then the rest of it. -/
theorem Memory.writeBytes_writeWord (m : Memory) (a : Nat) (b0 b1 b2 b3 : Byte) (bs : List Byte) :
    Memory.writeBytes (Memory.writeWord m a (pack32 b0 b1 b2 b3)) (a + 4) bs
      = Memory.writeBytes m a (b0 :: b1 :: b2 :: b3 :: bs) := by
  rw [Memory.writeWord, wordBytes_pack32]
  rfl

/-- The first write of wrbytes stores the first word of the string. -/
theorem step_wrbytes (s : State) {a : Nat} (b0 b1 b2 b3 : Byte) (bs : List Byte) (rest : List HostEvent)
    (ha : a % 4 = 0) (hn : a + 4 ≤ s.params.dmemBytes) :
    step { s with host := wrbytesSequence a (b0 :: b1 :: b2 :: b3 :: bs) ++ rest } = .next { s with
      host := wrbytesSequence (a + 4) bs ++ rest, readData := none, epoch := s.epoch + 1
      dmem := Memory.writeWord s.dmem a (pack32 b0 b1 b2 b3) } :=
  step_write_window (by rw [wrbytesSequence_cons]; rfl) ha hn

/-- The writes of wrbytes leave the memory with the whole string written (R111). -/
theorem run_wrbytes (k : Nat) (s : State) {a : Nat} {bs : List Byte} (rest : List HostEvent) (ha : a % 4 = 0)
    (hk : bs.length = 4 * k) (hn : a + bs.length ≤ s.params.dmemBytes) :
    ∃ r e, Host.Core.run Sys2Proof.core k { s with host := wrbytesSequence a bs ++ rest }
      = .next { s with host := rest, dmem := Memory.writeBytes s.dmem a bs, readData := r, epoch := e } := by
  induction k generalizing s a bs with
  | zero =>
    obtain rfl := List.eq_nil_of_length_eq_zero hk
    exact ⟨s.readData, s.epoch, rfl⟩
  | succ k ih =>
    match bs with
    | b0 :: b1 :: b2 :: b3 :: bs =>
      simp only [List.length_cons] at hk hn
      obtain ⟨r, e, hrun⟩ := ih (a := a + 4) (bs := bs)
        { s with readData := none, epoch := s.epoch + 1, dmem := Memory.writeWord s.dmem a (pack32 b0 b1 b2 b3) }
        (by omega) (by omega) (by dsimp only; omega)
      refine ⟨r, e, ?_⟩
      rw [run_succ (step_wrbytes s b0 b1 b2 b3 bs rest ha (by omega)), ← Memory.writeBytes_writeWord]
      exact hrun
    | [] | [_] | [_, _] | [_, _, _] =>
      simp only [List.length_cons, List.length_nil] at hk
      omega

/-- Settles O57: the run writes the string, and a byte reads as the string says exactly inside it. -/
theorem wrbytesStoresTheString : Obligations.WrbytesStoresTheString := by
  intro s a bs ha hlen hn
  obtain ⟨r, e, hrun⟩ := run_wrbytes (bs.length / 4) s s.host ha (by omega) hn
  refine ⟨_, hrun, fun i hi => ?_, fun b hb => ?_, rfl⟩
  · rw [Memory.read_writeBytes, if_pos (by omega), Nat.add_sub_cancel_left]
  · rw [Memory.read_writeBytes, if_neg (by omega)]

/-! ## rdbytes -/

/-- The first read of rdbytes returns the first word. -/
theorem step_rdbytes (s : State) {a : Nat} (k : Nat) (rest : List HostEvent) (ha : a % 4 = 0)
    (hn : a + 4 ≤ s.params.dmemBytes) :
    step { s with host := rdbytesSequence a (4 * (k + 1)) ++ rest } = .next { s with
      host := rdbytesSequence (a + 4) (4 * k) ++ rest, readData := some (Memory.readWord s.dmem a) } :=
  step_read_window (by rw [rdbytesSequence_succ]; rfl) ha hn

/-- The reads of rdbytes run to the end and leave the core as it was (R77, R111). -/
theorem run_rdbytes (k : Nat) (s : State) {a : Nat} (rest : List HostEvent) (ha : a % 4 = 0)
    (hn : a + 4 * k ≤ s.params.dmemBytes) :
    ∃ r, Host.Core.run Sys2Proof.core k { s with host := rdbytesSequence a (4 * k) ++ rest }
      = .next { s with host := rest, readData := r } := by
  induction k generalizing s a with
  | zero => exact ⟨s.readData, rfl⟩
  | succ k ih =>
    rw [run_succ (step_rdbytes s k rest ha (by omega))]
    exact ih { s with readData := some (Memory.readWord s.dmem a) } (by omega) (by dsimp only; omega)

/-- The bytes of DMEM from a on: the first word's, and those from four bytes on. -/
theorem map_read_range_succ (m : Memory) (a k : Nat) :
    (List.range (4 * (k + 1))).map (fun i => Memory.read m (a + i))
      = wordBytes (Memory.readWord m a) ++ (List.range (4 * k)).map (fun i => Memory.read m (a + 4 + i)) := by
  rw [show 4 * (k + 1) = 4 + 4 * k by omega, List.range_add, List.map_append, List.map_map, wordBytes_readWord]
  congr 1
  exact List.map_congr_left fun i _ => by rw [Function.comp, Nat.add_assoc]

/-- The answers to the reads of rdbytes, unpacked, are the bytes of DMEM (R71, R111). -/
theorem unpackWords_answers_rdbytes (k : Nat) (s : State) {a : Nat} (rest : List HostEvent) (ha : a % 4 = 0)
    (hn : a + 4 * k ≤ s.params.dmemBytes) :
    unpackWords (answers k { s with host := rdbytesSequence a (4 * k) ++ rest })
      = (List.range (4 * k)).map fun i => Memory.read s.dmem (a + i) := by
  induction k generalizing s a with
  | zero => rfl
  | succ k ih =>
    rw [answers_succ (step_rdbytes s k rest ha (by omega)), map_read_range_succ]
    have htail := ih (a := a + 4) { s with readData := some (Memory.readWord s.dmem a) } (by omega)
      (by dsimp only; omega)
    exact (unpackWords_cons _ _).trans (congrArg _ htail)

/-- Settles O58, for the n / 4 words of the string. -/
theorem rdbytesReturnsTheBytes : Obligations.RdbytesReturnsTheBytes := by
  intro s a n ha hlen hn
  obtain ⟨k, rfl⟩ := Nat.dvd_of_mod_eq_zero hlen
  rw [rdbytes, issueRdbytes, Nat.mul_div_cancel_left k (by decide)]
  exact ⟨unpackWords_answers_rdbytes k s s.host ha hn, run_rdbytes k s s.host ha hn⟩

end Sys2Proof.Machine
end

section
/-! PROOF. The lookup tables against their definitions (R131 to R136): a table round of either direction is the matrix
of its field products, and S is the affine map of the field inverse, which is unique because the field product is
associative. -/

namespace Sys2Proof.Machine

/-! ## Rotations of a packed word -/

theorem getLsbD_rotr32 (w : Word) {n i : Nat} (hn : n < 32) (hi : i < 32) :
    (rotr32 w n).getLsbD i = w.getLsbD ((n + i) % 32) := by
  have hrot : rotr32 w n = w.rotateRight n := by rw [rotr32, BitVec.rotateRight_def, Nat.mod_eq_of_lt hn]
  rw [hrot, BitVec.getLsbD_rotateRight, Nat.mod_eq_of_lt hn]
  by_cases hlow : i < 32 - n
  · simp [hlow, Nat.mod_eq_of_lt (show n + i < 32 by omega)]
  · simp [hlow, hi, show (n + i) % 32 = i - (32 - n) by omega]

/-- A rotation by m bytes moves each byte m places down, cyclically. -/
theorem byteOf_rotr32 (w : Word) {n m k : Nat} (hn : n = 8 * m) (hm : m < 4) (hk : k < 4) :
    byteOf (rotr32 w n) k = byteOf w ((k + m) % 4) := by
  subst hn
  apply BitVec.eq_of_getLsbD_eq
  intro j hj
  have hbit : (8 * m + (8 * k + j)) % 32 = 8 * ((k + m) % 4) + j := by omega
  simp [byteOf, hj, getLsbD_rotr32 w (show 8 * m < 32 by omega) (show 8 * k + j < 32 by omega), hbit]

/-- Four columns, each rotated one byte further than the one before, add up row by row. -/
theorem pack32_xor_rotations (a0 a1 a2 a3 b0 b1 b2 b3 c0 c1 c2 c3 d0 d1 d2 d3 : Byte) :
    pack32 a0 a1 a2 a3 ^^^ rotr32 (pack32 b0 b1 b2 b3) 8 ^^^ rotr32 (pack32 c0 c1 c2 c3) 16
        ^^^ rotr32 (pack32 d0 d1 d2 d3) 24
      = pack32 (a0 ^^^ b3 ^^^ c2 ^^^ d1) (a1 ^^^ b0 ^^^ c3 ^^^ d2) (a2 ^^^ b1 ^^^ c0 ^^^ d3)
          (a3 ^^^ b2 ^^^ c1 ^^^ d0) := by
  have h8 (w : Word) (k : Nat) (hk : k < 4) := byteOf_rotr32 w (n := 8) (m := 1) rfl (by decide) hk
  have h16 (w : Word) (k : Nat) (hk : k < 4) := byteOf_rotr32 w (n := 16) (m := 2) rfl (by decide) hk
  have h24 (w : Word) (k : Nat) (hk : k < 4) := byteOf_rotr32 w (n := 24) (m := 3) rfl (by decide) hk
  apply word_ext <;> simp [h8, h16, h24]

/-! ## The table round -/

theorem middleRound_getElem (d : Direction) (k t : RoundKey) (i : Fin 4) :
    (middleRound d k t)[i] = k[i] ^^^ (d.a0 (byteOf t[i] 3) ^^^ d.a1 (byteOf t[i + d.o1] 2)
      ^^^ d.a2 (byteOf t[i + d.o2] 1) ^^^ d.a3 (byteOf t[i + d.o3] 0)) := by
  rw [BitVec.xor_comm k[i]]
  simp [middleRound]

/-- Settles O18: the four tables are one column and its three rotations. -/
theorem tableRoundsAreMixColumns : Obligations.TableRoundsAreMixColumns := by
  refine fun k t i => ⟨?_, ?_⟩ <;>
  · rintro _ _ _ _ rfl rfl rfl rfl
    rw [middleRound_getElem]
    exact congrArg (k[i] ^^^ ·) (pack32_xor_rotations ..)

/-! ## The field product (R131) -/

theorem xor_bit_ite (p q : Bool) (a : Byte) :
    (if (p ^^ q) = true then a else 0) = (if p = true then a else 0) ^^^ (if q = true then a else 0) := by
  cases p <;> cases q <;> simp

theorem xtime_xor (a b : Byte) : xtime (a ^^^ b) = xtime a ^^^ xtime b := by
  rw [xtime, xtime, xtime, BitVec.shiftLeft_xor_distrib, BitVec.getLsbD_xor, xor_bit_ite]
  ac_rfl

/-- One round of the loop, with what it adds to r as one term. -/
theorem gmulLoop_succ (n : Nat) (a b r : Byte) :
    gmulLoop (n + 1) a b r = gmulLoop n (xtime a) (b >>> 1) (r ^^^ if b.getLsbD 0 then a else 0) := by
  rw [gmulLoop]
  cases b.getLsbD 0 <;> simp

theorem gmulLoop_xor_left (n : Nat) (a a' b r r' : Byte) :
    gmulLoop n (a ^^^ a') b (r ^^^ r') = gmulLoop n a b r ^^^ gmulLoop n a' b r' := by
  induction n generalizing a a' b r r' with
  | zero => rfl
  | succ n ih =>
    rw [gmulLoop_succ, gmulLoop_succ, gmulLoop_succ, xtime_xor, ← ih]
    congr 1
    cases b.getLsbD 0 with
    | false => simp
    | true => simp only [if_true]; ac_rfl

theorem gmulLoop_xor_right (n : Nat) (a b b' r r' : Byte) :
    gmulLoop n a (b ^^^ b') (r ^^^ r') = gmulLoop n a b r ^^^ gmulLoop n a b' r' := by
  induction n generalizing a b b' r r' with
  | zero => rfl
  | succ n ih =>
    rw [gmulLoop_succ, gmulLoop_succ, gmulLoop_succ, BitVec.ushiftRight_xor_distrib, BitVec.getLsbD_xor, xor_bit_ite,
      ← ih]
    congr 1
    ac_rfl

theorem gmul_xor_left (a a' b : Byte) : gmul (a ^^^ a') b = gmul a b ^^^ gmul a' b :=
  gmulLoop_xor_left 8 a a' b 0 0

theorem gmul_xor_right (a b b' : Byte) : gmul a (b ^^^ b') = gmul a b ^^^ gmul a b' :=
  gmulLoop_xor_right 8 a b b' 0 0

@[simp] theorem gmul_zero_right (a : Byte) : gmul a 0 = 0 := by
  simpa using gmul_xor_right a 0 0

theorem setWidth_succ_eq_xor_twoPow {x : Byte} {n : Nat} (hx : x.getLsbD n = true) :
    (x.setWidth (n + 1)).setWidth 8 = (x.setWidth n).setWidth 8 ^^^ BitVec.twoPow 8 n := by
  ext i hi
  by_cases hin : i = n
  · subst hin
    simpa [hi] using hx
  · simp [hin, show i < n + 1 ↔ i < n by omega]

/-- A statement that XOR keeps holds of every byte if it holds of the powers of two: n low bits at a time. -/
theorem byte_xor_induction {p : Byte → Prop} (bit : ∀ i : Fin 8, p (BitVec.twoPow 8 i))
    (xor : ∀ a b, p a → p b → p (a ^^^ b)) (x : Byte) : p x := by
  have low : ∀ n ≤ 8, p ((x.setWidth n).setWidth 8) := by
    intro n
    induction n with
    | zero =>
      intro _
      rw [BitVec.of_length_zero (x := x.setWidth 0)]
      exact xor _ _ (bit 0) (bit 0)
    | succ n ih =>
      intro hn
      cases hx : x.getLsbD n with
      | false =>
        rw [BitVec.setWidth_setWidth_succ_eq_setWidth_setWidth_of_getLsbD_false hx]
        exact ih (by omega)
      | true =>
        rw [setWidth_succ_eq_xor_twoPow hx]
        exact xor _ _ (ih (by omega)) (bit ⟨n, hn⟩)
  simpa using low 8 le_rfl

/-- A doubled factor doubles the product. -/
theorem gmul_xtime_right (a b : Byte) : gmul a (xtime b) = xtime (gmul a b) := by
  induction a using byte_xor_induction with
  | xor a a' ha ha' => rw [gmul_xor_left, gmul_xor_left, xtime_xor, ha, ha']
  | bit i =>
    induction b using byte_xor_induction with
    | xor b b' hb hb' => rw [xtime_xor, gmul_xor_right, gmul_xor_right, xtime_xor, hb, hb']
    | bit j => revert i j; decide +kernel

theorem gmul_gmulLoop (n : Nat) (c a b r : Byte) : gmul c (gmulLoop n a b r) = gmulLoop n (gmul c a) b (gmul c r) := by
  induction n generalizing a b r with
  | zero => rfl
  | succ n ih =>
    rw [gmulLoop_succ, gmulLoop_succ, ih, gmul_xtime_right, gmul_xor_right, apply_ite (gmul c), gmul_zero_right]

theorem gmul_assoc (a b c : Byte) : gmul (gmul a b) c = gmul a (gmul b c) := by
  have hloop : gmul a (gmul b c) = gmulLoop 8 (gmul a b) c (gmul a 0) := gmul_gmulLoop 8 a b c 0
  rw [hloop, gmul_zero_right, gmul]

theorem gmul_one_right (a : Byte) : gmul a 1 = a := by
  simp [gmul, gmulLoop]

theorem gmul_one_left (a : Byte) : gmul 1 a = a := by
  induction a using byte_xor_induction with
  | xor a b ha hb => rw [gmul_xor_right, ha, hb]
  | bit i => revert i; decide

/-! ## The S-boxes (R132, R133) -/

/-- The affine map of R132. -/
def sboxAffine (b : Byte) : Byte :=
  b ^^^ b.rotateLeft 1 ^^^ b.rotateLeft 2 ^^^ b.rotateLeft 3 ^^^ b.rotateLeft 4 ^^^ 0x63

/-- The byte that the affine map of R132 sends to y. -/
def sboxAffineInv (y : Byte) : Byte := y.rotateLeft 1 ^^^ y.rotateLeft 3 ^^^ y.rotateLeft 6 ^^^ 0x05

theorem sboxAffine_sboxAffineInv : ∀ y : Byte, sboxAffine (sboxAffineInv y) = y := by decide +kernel

/-- The grid of S, entry by entry: the affine map's argument for S[x] is the field inverse of x (R132). -/
theorem gmul_sboxAffineInv_sbox : ∀ x : Byte, x ≠ 0 → gmul (sboxAffineInv (sbox x)) x = 1 := by decide +kernel

theorem invSbox_sbox : ∀ x : Byte, invSbox (sbox x) = x := by decide +kernel

theorem sbox_invSbox : ∀ x : Byte, sbox (invSbox x) = x := by decide +kernel

/-- R131: a left inverse of x in the field is its only right inverse. -/
theorem eq_of_gmul_eq_one {b' x b : Byte} (hleft : gmul b' x = 1) (hright : gmul x b = 1) : b = b' :=
  calc b = gmul 1 b := (gmul_one_left b).symm
    _ = gmul b' (gmul x b) := by rw [← hleft, gmul_assoc]
    _ = b' := by rw [hright, gmul_one_right]

/-- Settles O19: b is the one field inverse of x, which the grid's entry was checked against. -/
theorem sboxIsAffineMapOfFieldInverse : Obligations.SboxIsAffineMapOfFieldInverse := by
  intro x b hzero hinv
  have hb : b = sboxAffineInv (sbox x) := by
    by_cases hx : x = 0
    · rw [hzero hx, hx]; decide
    · exact eq_of_gmul_eq_one (gmul_sboxAffineInv_sbox x hx) (hinv hx)
  have hsbox : sbox x = sboxAffine b := by rw [hb, sboxAffine_sboxAffineInv]
  exact ⟨hsbox, invSbox_sbox x, sbox_invSbox x⟩

end Sys2Proof.Machine
end

section
/-! PROOF. The key schedule (R160 to R166): the loop of R162 keeps the words it starts with and obeys the recurrence at
every word it adds, and KEY_EXPAND commits those words to EK and their mirror image to DK. -/

namespace Sys2Proof.Machine

/-! ## The loop of R162 -/

/-- The loop only appends, so the words it starts with stand. -/
theorem extendKeyWords_getD_of_lt (nk n : Nat) {w : List Word} {i : Nat} (hi : i < w.length) :
    (extendKeyWords nk n w).getD i 0 = w.getD i 0 := by
  induction n generalizing w with
  | zero => rfl
  | succ n ih =>
    have hi' : i < (w ++ [nextKeyWord nk w]).length := by rw [List.length_append]; omega
    rw [extendKeyWords, ih hi', List.getD_append _ _ _ _ hi]

/-- The first word the loop adds. -/
theorem extendKeyWords_succ_getD_length (nk n : Nat) (w : List Word) :
    (extendKeyWords nk (n + 1) w).getD w.length 0 = nextKeyWord nk w := by
  rw [extendKeyWords, extendKeyWords_getD_of_lt nk n (by simp)]
  simp

/-- Every word the loop adds is made by R162's recurrence from the finished sequence. -/
theorem extendKeyWords_recurrence {nk n j : Nat} {w : List Word} (hnk : 0 < nk) (hw : nk ≤ w.length)
    (hlow : w.length ≤ j) (hhigh : j < w.length + n) :
    (extendKeyWords nk n w).getD j 0 =
      (extendKeyWords nk n w).getD (j - nk) 0 ^^^ scheduleCore nk j ((extendKeyWords nk n w).getD (j - 1) 0) := by
  induction n generalizing w with
  | zero => omega
  | succ n ih =>
    rcases Nat.eq_or_lt_of_le hlow with rfl | hlater
    · rw [extendKeyWords_succ_getD_length, extendKeyWords_getD_of_lt _ _ (by omega),
        extendKeyWords_getD_of_lt _ _ (by omega), nextKeyWord]
    · have hlen : (w ++ [nextKeyWord nk w]).length = w.length + 1 := by simp
      exact ih (w := w ++ [nextKeyWord nk w]) (by omega) (by omega) (by omega)

/-! ## The words of a key -/

/-- w[0 .. Nk-1] are the KEY registers (R161). -/
theorem keyWords_getD_of_lt (s : State) {nk i : Nat} (hi : i < nk) : (keyWords s nk).getD i 0 = s.key.getD i 0 := by
  rw [keyWords, extendKeyWords_getD_of_lt _ _ (by simpa using hi), ← keyWord_eq]
  simp [hi]

/-- w[Nk .. 4(Nr+1)-1] obey R162. -/
theorem keyWords_recurrence (s : State) {nk j : Nat} (hnk : 0 < nk) (hlow : nk ≤ j)
    (hhigh : j < 4 * (roundCount nk + 1)) :
    (keyWords s nk).getD j 0 =
      (keyWords s nk).getD (j - nk) 0 ^^^ scheduleCore nk j ((keyWords s nk).getD (j - 1) 0) := by
  have hlen : ((List.range nk).map (keyWord s)).length = nk := by simp
  exact extendKeyWords_recurrence hnk hlen.ge (by omega) (by omega)

theorem encRow_getElem (w : List Word) (r : Nat) (c : Fin 4) : (encRow w r)[c] = w.getD (4 * r + c.val) 0 := by
  simp [encRow]

/-! ## KEY_EXPAND -/

/-- A legal key length passes both checks of R165. -/
theorem execKeyExpand_of_legal {n : Nat} (hn : n = 16 ∨ n = 24 ∨ n = 32) (s : State) :
    execKeyExpand n s = .next (expandKey (n / 4) s).complete := by
  rw [execKeyExpand, if_neg (by omega), if_neg (by omega), succeed_eq]

/-- Settles O11: w is the loop's sequence, which obeys R162 word by word, and EK is committed from it row by row. -/
theorem keyExpandBuildsTheSchedule : Obligations.KeyExpandBuildsTheSchedule := by
  intro n s hn
  refine ⟨(expandKey (n / 4) s).complete, fun i => (keyWords s (n / 4)).getD i 0, execKeyExpand_of_legal hn s,
    fun i hi => keyWords_getD_of_lt s hi,
    fun j hlow hhigh => keyWords_recurrence s (by omega) hlow hhigh, fun r c hr => ?_, rfl⟩
  have hrow : keyRow (expandKey (n / 4) s).complete.ek r = encRow (keyWords s (n / 4)) r :=
    keyRow_committedEk hr (by unfold roundCount; omega)
  rw [hrow, encRow_getElem]

/-! ## DK from EK -/

/-- R164 in the two files KEY_EXPAND commits. -/
theorem keyRow_expandKey_dk {nk r : Nat} (hnk : nk ≤ 8) (hr : r ≤ roundCount nk) (s : State) :
    keyRow (expandKey nk s).dk r = mirroredRow (expandKey nk s).ek (roundCount nk) r := by
  have hround : roundCount nk ≤ 14 := by unfold roundCount; omega
  rw [expandKey, State.setKeys_dk, State.setKeys_ek, keyRow_committedDk hr hround, mirroredRow_committedEk hround]

theorem mirroredRow_zero (ek : RoundKeys) (nr : Nat) : mirroredRow ek nr 0 = keyRow ek nr := by
  rw [mirroredRow, if_pos (.inl rfl), Nat.sub_zero]

theorem mirroredRow_last (ek : RoundKeys) (nr : Nat) : mirroredRow ek nr nr = keyRow ek 0 := by
  rw [mirroredRow, if_pos (.inr rfl), Nat.sub_self]

theorem mirroredRow_between (ek : RoundKeys) {nr r : Nat} (hlow : 1 ≤ r) (hhigh : r < nr) (c : Fin 4) :
    (mirroredRow ek nr r)[c] = invMixWord (keyRow ek (nr - r))[c] := by
  rw [mirroredRow, if_neg (by omega)]
  simp

/-- Settles O12, by the kinds of row: the first, the last and those between them. -/
theorem decryptionKeysAreReversedAndMixed : Obligations.DecryptionKeysAreReversedAndMixed := by
  intro n s t h ht
  obtain ⟨hn, ht'⟩ : Effect (.keyExpand n) s t := effect_of_success h ht
  have hrow : ∀ r ≤ n / 4 + 6, keyRow t.dk r = mirroredRow t.ek (n / 4 + 6) r := fun r hr => by
    rw [ht', State.complete_dk, State.complete_ek]
    exact keyRow_expandKey_dk (by omega) hr s
  refine ⟨?_, ?_, fun r c hlow hhigh => ?_⟩
  · rw [hrow 0 (Nat.zero_le _), mirroredRow_zero]
  · rw [hrow _ le_rfl, mirroredRow_last]
  · rw [hrow r hhigh.le, mirroredRow_between t.ek hlow hhigh, invMixWord]

end Sys2Proof.Machine
end

section
/-! PROOF. The block transform (R180 to R186): its words round by round, that the inverse direction with the mirrored
keys takes the forward rounds back one by one, and what BLOCK_ENC and BLOCK_DEC do to the block at ADDR. -/

namespace Sys2Proof.Machine

/-! ## Round by round -/

theorem roundKey_ext {v w : RoundKey} (h : ∀ i : Fin 4, v[i] = w[i]) : v = w :=
  Vector.ext fun i hi => h ⟨i, hi⟩

theorem addFirstKey_getElem (k : RoundKey) (x : Block) (i : Fin 4) :
    (addFirstKey k x)[i] = blockWord x i ^^^ k[i] := by
  simp [addFirstKey]

/-- Round n is the last of the middle rounds 1 to n. -/
theorem middleRounds_of_pos (d : Direction) (k : RoundKeys) {n : Nat} (hn : 1 ≤ n) (t : RoundKey) :
    middleRounds d k n t = middleRound d (keyRow k n) (middleRounds d k (n - 1) t) := by
  obtain ⟨m, rfl⟩ := Nat.exists_eq_add_of_le' hn
  rfl

theorem finalRound_getElem (d : Direction) (k t : RoundKey) (i j : Fin 4) :
    (finalRound d k t)[4 * i.val + j.val] = byteOf (finalWord d k t i) (3 - j.val) := by
  have hdiv : (4 * i.val + j.val) / 4 = i.val := by omega
  have hmod : (4 * i.val + j.val) % 4 = j.val := by omega
  simp [finalRound, hdiv, hmod]

/-- Word i of the output, packed from its four bytes. -/
theorem blockWord_finalRound (d : Direction) (k t : RoundKey) (i : Fin 4) :
    blockWord (finalRound d k t) i = finalWord d k t i := by
  have hbyte (j : Fin 4) :
      byteOf (blockWord (finalRound d k t) i) (3 - j.val) = byteOf (finalWord d k t i) (3 - j.val) :=
    (byteOf_blockWord _ i j).trans (finalRound_getElem d k t i j)
  exact word_ext (hbyte 0) (hbyte 1) (hbyte 2) (hbyte 3)

/-- Two blocks of the same four words are the same block. -/
theorem block_ext_blockWord {x y : Block} (h : ∀ i : Fin 4, blockWord x i = blockWord y i) : x = y := by
  refine Vector.ext fun p hp => ?_
  obtain ⟨i, j, rfl⟩ : ∃ i j : Fin 4, p = 4 * i.val + j.val :=
    ⟨⟨p / 4, by omega⟩, ⟨p % 4, by omega⟩, (Nat.div_add_mod p 4).symm⟩
  rw [← byteOf_blockWord, ← byteOf_blockWord, h i]

/-- Settles O15: t(r) is the state after middle round r. -/
theorem transformFollowsTheRoundRule : Obligations.TransformFollowsTheRoundRule := by
  refine ⟨fun d k nr x _ _ => ?_, fun s x => ⟨rfl, rfl⟩⟩
  refine ⟨fun r i => (middleRounds d k r (addFirstKey (keyRow k 0) x))[i], addFirstKey_getElem _ x,
    fun r i hlow _ => ?_, fun i => ?_⟩
  · simp only [middleRounds_of_pos d k hlow, middleRound_getElem]
    rw [BitVec.xor_comm]
  · have hbyte := finalRound_getElem d (keyRow k nr) (middleRounds d k (nr - 1) (addFirstKey (keyRow k 0) x)) i
    refine ⟨(hbyte 0).trans ?_, (hbyte 1).trans ?_, (hbyte 2).trans ?_, (hbyte 3).trans ?_⟩ <;> simp [finalWord]

/-! ## The mix of a word and its inverse -/

theorem rotr32_xor (v w : Word) {n : Nat} (hn : n < 32) : rotr32 (v ^^^ w) n = rotr32 v n ^^^ rotr32 w n := by
  apply BitVec.eq_of_getLsbD_eq
  intro i hi
  simp [getLsbD_rotr32 _ hn hi]

theorem pack32_xor (a b c d a' b' c' d' : Byte) :
    pack32 (a ^^^ a') (b ^^^ b') (c ^^^ c') (d ^^^ d') = pack32 a b c d ^^^ pack32 a' b' c' d' := by
  apply word_ext <;> simp

theorem invMixColumn_xor (a b : Byte) : invMixColumn (a ^^^ b) = invMixColumn a ^^^ invMixColumn b := by
  simp only [invMixColumn, gmul_xor_left, pack32_xor]

theorem invMixWord_xor (v w : Word) : invMixWord (v ^^^ w) = invMixWord v ^^^ invMixWord w := by
  have h8 (x y : Word) := rotr32_xor x y (show 8 < 32 by decide)
  have h16 (x y : Word) := rotr32_xor x y (show 16 < 32 by decide)
  have h24 (x y : Word) := rotr32_xor x y (show 24 < 32 by decide)
  simp only [invMixWord, u1, u2, u3, u4, byteOf_xor, invMixColumn_xor, h8, h16, h24]
  ac_rfl

/-- The forward MixColumns of one word (R135). -/
def mixWord (v : Word) : Word :=
  mixColumn (byteOf v 3) ^^^ rotr32 (mixColumn (byteOf v 2)) 8 ^^^ rotr32 (mixColumn (byteOf v 1)) 16
    ^^^ rotr32 (mixColumn (byteOf v 0)) 24

theorem mixColumn_xor (a b : Byte) : mixColumn (a ^^^ b) = mixColumn a ^^^ mixColumn b := by
  simp only [mixColumn, gmul_xor_left, pack32_xor]

/-- The inverse mix of a mixed column is the byte the column was made of, in the place it was rotated to. Both sides
keep XOR, so the eight powers of two stand for every byte. -/
theorem invMixWord_mixColumn (m : Fin 4) (b : Byte) :
    invMixWord (rotr32 (mixColumn b) (8 * m.val)) = rotr32 (pack32 b 0 0 0) (8 * m.val) := by
  induction b using byte_xor_induction with
  | bit i => revert m i; decide +kernel
  | xor a b ha hb =>
    have hm : 8 * m.val < 32 := by omega
    have hpack : pack32 (a ^^^ b) 0 0 0 = pack32 a 0 0 0 ^^^ pack32 b 0 0 0 := pack32_xor a 0 0 0 b 0 0 0
    rw [mixColumn_xor, rotr32_xor _ _ hm, invMixWord_xor, ha, hb, hpack, rotr32_xor _ _ hm]

theorem rotr32_zero (w : Word) : rotr32 w 0 = w := by
  simp [rotr32]

theorem invMixWord_mixWord (v : Word) : invMixWord (mixWord v) = v := by
  have h0 (b : Byte) : invMixWord (mixColumn b) = pack32 b 0 0 0 := by
    simpa [rotr32_zero] using invMixWord_mixColumn 0 b
  have h1 (b : Byte) : invMixWord (rotr32 (mixColumn b) 8) = rotr32 (pack32 b 0 0 0) 8 := invMixWord_mixColumn 1 b
  have h2 (b : Byte) : invMixWord (rotr32 (mixColumn b) 16) = rotr32 (pack32 b 0 0 0) 16 := invMixWord_mixColumn 2 b
  have h3 (b : Byte) : invMixWord (rotr32 (mixColumn b) 24) = rotr32 (pack32 b 0 0 0) 24 := invMixWord_mixColumn 3 b
  rw [mixWord, invMixWord_xor, invMixWord_xor, invMixWord_xor, h0, h1, h2, h3, pack32_xor_rotations]
  simp

/-! ## The byte substitution and the row shift -/

/-- The S-box of a direction on every byte, each taken from the word its row shift names. -/
def substituteShift (d : Direction) (t : RoundKey) : RoundKey :=
  Vector.ofFn fun i =>
    pack32 (d.sb (byteOf t[i] 3)) (d.sb (byteOf t[i + d.o1] 2)) (d.sb (byteOf t[i + d.o2] 1))
      (d.sb (byteOf t[i + d.o3] 0))

theorem substituteShift_getElem (d : Direction) (t : RoundKey) (i : Fin 4) :
    (substituteShift d t)[i] = pack32 (d.sb (byteOf t[i] 3)) (d.sb (byteOf t[i + d.o1] 2))
      (d.sb (byteOf t[i + d.o2] 1)) (d.sb (byteOf t[i + d.o3] 0)) := by
  simp [substituteShift]

theorem finalWord_eq (d : Direction) (k t : RoundKey) (i : Fin 4) :
    finalWord d k t i = (substituteShift d t)[i] ^^^ k[i] := by
  rw [substituteShift_getElem, finalWord]

/-- InvShiftRows and SI take ShiftRows and S back. -/
theorem substituteShift_inverse_forward (t : RoundKey) :
    substituteShift inverse (substituteShift forward t) = t := by
  refine roundKey_ext fun i => ?_
  have h1 : i + 3 + 1 = i := by omega
  have h2 : i + 2 + 2 = i := by omega
  have h3 : i + 1 + 3 = i := by omega
  simp only [substituteShift_getElem, forward, inverse, byteOf_pack32_three, byteOf_pack32_two, byteOf_pack32_one,
    byteOf_pack32_zero, invSbox_sbox, h1, h2, h3, pack32_byteOf]

theorem middleRound_forward_getElem (k t : RoundKey) (i : Fin 4) :
    (middleRound forward k t)[i] = k[i] ^^^ mixWord (substituteShift forward t)[i] := by
  rw [middleRound_getElem, substituteShift_getElem]
  simp [mixWord, forward, t1, t2, t3, t4]

theorem middleRound_inverse_getElem (k t : RoundKey) (i : Fin 4) :
    (middleRound inverse k t)[i] = k[i] ^^^ invMixWord (substituteShift inverse t)[i] := by
  rw [middleRound_getElem, substituteShift_getElem]
  simp [invMixWord, inverse, t5, t6, t7, t8, u1, u2, u3, u4]

/-! ## The inverse direction takes the rounds back (R183) -/

/-- An inverse round with the mixed round key takes a forward round back. -/
theorem middleRound_inverse_forward {k k' : RoundKey} (hk : ∀ i : Fin 4, k'[i] = invMixWord k[i]) (t : RoundKey) :
    middleRound inverse k' (substituteShift forward (middleRound forward k t)) = substituteShift forward t := by
  refine roundKey_ext fun i => ?_
  rw [middleRound_inverse_getElem, substituteShift_inverse_forward, middleRound_forward_getElem, invMixWord_xor,
    invMixWord_mixWord, hk, ← BitVec.xor_assoc, BitVec.xor_self, BitVec.zero_xor]

section

variable {ek dk : RoundKeys} {nr : Nat} (hdk : ∀ r ≤ nr, keyRow dk r = mirroredRow ek nr r)
include hdk

/-- After r inverse rounds, the state is that of the forward direction r rounds before its last. -/
theorem middleRounds_inverse_forward (t : RoundKey) {r : Nat} (hr : r < nr) :
    middleRounds inverse dk r (substituteShift forward (middleRounds forward ek (nr - 1) t)) =
      substituteShift forward (middleRounds forward ek (nr - 1 - r) t) := by
  induction r with
  | zero => rfl
  | succ r ih =>
    have hround : middleRounds forward ek (nr - 1 - r) t =
        middleRound forward (keyRow ek (nr - (r + 1))) (middleRounds forward ek (nr - 1 - (r + 1)) t) := by
      rw [middleRounds_of_pos _ _ (by omega)]
      congr 2
      omega
    rw [middleRounds, ih (by omega), hround]
    refine middleRound_inverse_forward (fun i => ?_) _
    rw [hdk _ hr.le, mirroredRow_between ek (by omega) hr]

theorem blockTransform_inverse_forward (hnr : 1 ≤ nr) (x : Block) :
    blockTransform inverse dk nr (blockTransform forward ek nr x) = x := by
  have hfirst : addFirstKey (keyRow dk 0) (blockTransform forward ek nr x) =
      substituteShift forward (middleRounds forward ek (nr - 1) (addFirstKey (keyRow ek 0) x)) := by
    refine roundKey_ext fun i => ?_
    rw [addFirstKey_getElem, hdk 0 (Nat.zero_le _), mirroredRow_zero, blockTransform, blockWord_finalRound,
      finalWord_eq, BitVec.xor_assoc, BitVec.xor_self, BitVec.xor_zero]
  refine block_ext_blockWord fun i => ?_
  rw [blockTransform, hfirst, middleRounds_inverse_forward hdk _ (by omega), Nat.sub_self, middleRounds,
    blockWord_finalRound, finalWord_eq, substituteShift_inverse_forward, addFirstKey_getElem, hdk _ le_rfl,
    mirroredRow_last, BitVec.xor_assoc, BitVec.xor_self, BitVec.xor_zero]

end

theorem finite_block : Finite Block := by
  have hbyte : Finite Byte := Finite.of_injective BitVec.toFin fun _ _ => BitVec.eq_of_toFin_eq
  exact Finite.of_injective (fun (b : Block) (i : Fin 16) => b[i]) fun b c h =>
    Vector.ext fun i hi => congrFun h ⟨i, hi⟩

/-- DEC inverts ENC while a key is there. -/
theorem decryptBlock_encryptBlock {s : State} (hvalid : s.keyValid = true) (hnr : s.nr = 10 ∨ s.nr = 12 ∨ s.nr = 14)
    (hmatch : keysMatch s = true) : Function.LeftInverse (decryptBlock s) (encryptBlock s) := by
  have hpos : 1 ≤ s.nr.toNat := by rcases hnr with h | h | h <;> rw [h] <;> decide
  exact blockTransform_inverse_forward ((keysMatch_iff s).1 hmatch hvalid) hpos

/-- ENC is a permutation of the finitely many blocks, so its left inverse DEC is its right inverse too. -/
theorem encryptBlock_decryptBlock {s : State} (hvalid : s.keyValid = true)
    (hnr : s.nr = 10 ∨ s.nr = 12 ∨ s.nr = 14) (hmatch : keysMatch s = true) :
    Function.RightInverse (decryptBlock s) (encryptBlock s) := by
  have hleft := decryptBlock_encryptBlock hvalid hnr hmatch
  have hfinite := finite_block
  exact hleft.rightInverse_of_surjective (Finite.surjective_of_injective hleft.injective)

/-- Settles O16: KEY_EXPAND commits a DK that mirrors EK, and with such a DK every inverse round takes a forward round
back. -/
theorem decryptionInvertsEncryption : Obligations.DecryptionInvertsEncryption := by
  intro n s t x h ht
  obtain ⟨hn, rfl⟩ : Effect (.keyExpand n) s t := effect_of_success h ht
  have hmatch : keysMatch (expandKey (n / 4) s).complete = true := expandKey_keysMatch (by omega) s
  exact ⟨decryptBlock_encryptBlock rfl (roundCount_legal hn) hmatch x,
    encryptBlock_decryptBlock rfl (roundCount_legal hn) hmatch x⟩

/-! ## BLOCK_ENC and BLOCK_DEC -/

/-- The checks of R185 and R186 hold, and the block at ADDR is replaced. -/
theorem blockCommand_of_checks (f : Block → Block) {s : State} (hvalid : s.keyValid = true) (hlen : s.len = 16)
    (hrange : inRange s 16 = true) : blockCommand f s = .next (transformAt f s).complete := by
  simp [blockCommand, hvalid, hlen, hrange]

@[simp] theorem transformAt_dmem (f : Block → Block) (s : State) :
    (transformAt f s).dmem = Memory.writeBlock s.dmem s.addr.toNat (f (Memory.readBlock s.dmem s.addr.toNat)) := rfl

@[simp] theorem transformAt_addr (f : Block → Block) (s : State) : (transformAt f s).addr = s.addr := rfl

/-- A block command that passes its checks: the 16 bytes at ADDR become their image, all else but ERR stays. -/
theorem blockCommand_replacesTheBlock (f : Block → Block) {s : State} (hvalid : s.keyValid = true)
    (hlen : s.len.toNat = 16) (hrange : s.addr.toNat + 16 ≤ s.params.dmemBytes) :
    ∃ t, blockCommand f s = .next t
      ∧ (∀ i : Fin 16, Memory.read t.dmem (s.addr.toNat + i.val) = (f (Memory.readBlock s.dmem s.addr.toNat))[i])
      ∧ (∀ a, a < s.addr.toNat ∨ s.addr.toNat + 16 ≤ a → Memory.read t.dmem a = Memory.read s.dmem a)
      ∧ t = { s with err := .success, dmem := t.dmem } :=
  ⟨(transformAt f s).complete,
    blockCommand_of_checks f hvalid ((word_eq_sixteen_iff _).2 hlen) ((inRange_iff s 16).2 hrange),
    fun i => Memory.read_writeBlock_inside _ _ _ i.val i.isLt,
    fun a ha => Memory.read_writeBlock_outside _ _ _ a ha, rfl⟩

/-- Settles O13: BLOCK_ENC is the block command with ENC. -/
theorem blockEncReplacesTheBlock : Obligations.BlockEncReplacesTheBlock := fun s =>
  blockCommand_replacesTheBlock (encryptBlock s)

/-- Settles O14: BLOCK_DEC is the block command with DEC. -/
theorem blockDecReplacesTheBlock : Obligations.BlockDecReplacesTheBlock := fun s =>
  blockCommand_replacesTheBlock (decryptBlock s)

/-- In a canonical memory, a block overwritten and then put back leaves the memory as it was. -/
theorem Memory.writeBlock_readBlock {m : Memory} (hm : Memory.wf m = true) (a : Nat) (b : Block) :
    Memory.writeBlock (Memory.writeBlock m a b) a (Memory.readBlock m a) = m := by
  refine Memory.ext_of_read (Memory.wf_writeBlock (Memory.wf_writeBlock hm a b) a _) hm fun c => ?_
  by_cases hc : c < a ∨ a + 16 ≤ c
  · rw [Memory.read_writeBlock_outside _ _ _ _ hc, Memory.read_writeBlock_outside _ _ _ _ hc]
  · obtain ⟨i, rfl⟩ := Nat.exists_eq_add_of_le (show a ≤ c by omega)
    rw [Memory.read_writeBlock_inside _ _ _ _ (by omega), Memory.readBlock_getElem]

/-- A block command leaves another one's checks as they were. -/
theorem blockCommand_transformAt (f g : Block → Block) {s : State} (hvalid : s.keyValid = true) (hlen : s.len = 16)
    (hrange : inRange s 16 = true) :
    blockCommand g (transformAt f s).complete = .next (transformAt g (transformAt f s).complete).complete := by
  refine blockCommand_of_checks g ?_ ?_ ?_
  · simpa [transformAt] using hvalid
  · simpa [transformAt] using hlen
  · simpa [transformAt, inRange_iff] using hrange

/-- A transform of the block at ADDR and then one that inverts it restore a canonical memory. -/
theorem transformAt_transformAt {f g : Block → Block} (hinv : Function.LeftInverse g f) {s : State}
    (hs : Memory.wf s.dmem = true) : (transformAt g (transformAt f s).complete).complete = s.complete := by
  have hdmem : (transformAt g (transformAt f s).complete).dmem = s.dmem := by
    simp only [transformAt_dmem, State.complete_dmem, State.complete_addr, transformAt_addr,
      Memory.readBlock_writeBlock, hinv _, Memory.writeBlock_readBlock hs]
  exact congrArg (fun m => (s.setDmem m).complete) hdmem

theorem execBlockDec_transformAt (f : Block → Block) (s : State) :
    execBlockDec (transformAt f s).complete = blockCommand (decryptBlock s) (transformAt f s).complete := rfl

/-- Settles O17: BLOCK_ENC leaves BLOCK_DEC's checks and its keys as they were, and DEC puts the old block back. -/
theorem blockDecUndoesBlockEnc : Obligations.BlockDecUndoesBlockEnc := by
  intro s t hs hmatch h ht
  obtain ⟨hvalid, hlen, hrange, rfl⟩ : Effect .blockEnc s t := effect_of_success h ht
  obtain ⟨_, hkey, _, hdmem⟩ := (State.inv_iff s).1 hs
  have hinv := decryptBlock_encryptBlock hvalid (((keyStateLegal_iff s).1 hkey).1 hvalid) hmatch
  rw [exec, execBlockDec_transformAt, blockCommand_transformAt _ _ hvalid hlen hrange,
    transformAt_transformAt hinv ((dmemLegal_iff s).1 hdmem).1]
  rfl

end Sys2Proof.Machine
end

section
/-! PROOF. The counter commands complete (R203 to R207): each has its effect when its checks hold. INC adds one to the
block as a number, and its three policies part only at the maximal suffix (R201). -/

namespace Sys2Proof.Machine

/-! ## A command whose checks hold -/

/-- The converse of `effect_of_success`: a command has its effect when the effect's checks hold. -/
theorem exec_of_effect {i : Instr} {s t : State} (h : Effect i s t) : exec i s = .next t := by
  cases i with
  | keyExpand n =>
    obtain ⟨hn, rfl⟩ := h
    exact execKeyExpand_of_legal hn s
  | blockEnc =>
    obtain ⟨hkey, hlen, hrange, rfl⟩ := h
    exact blockCommand_of_checks _ hkey hlen hrange
  | blockDec =>
    obtain ⟨hkey, hlen, hrange, rfl⟩ := h
    exact blockCommand_of_checks _ hkey hlen hrange
  | ctrLoad n =>
    obtain ⟨hn, hseed, rfl⟩ := h
    simp [exec, execCtrLoad, hn, hseed]
  | ctrSetval =>
    obtain ⟨hctr, hseed, rfl⟩ := h
    simp [exec, execCtrSetval, hctr, hseed]
  | ctrSetbytes =>
    obtain ⟨hlen, hrange, rfl⟩ := h
    simp [exec, execCtrSetbytes, hlen, hrange]
  | ctrInc =>
    obtain ⟨hctr, b, hinc, rfl⟩ := h
    simp [exec, execCtrInc, hctr, hinc]
  | ctrClone =>
    obtain ⟨hctr, hrange, rfl⟩ := h
    simp [exec, execCtrClone, hctr, hrange]
  | streamReset =>
    obtain rfl := h
    rfl
  | streamApply =>
    obtain ⟨hkey, hctr, hlen, hrange, hroom, rfl⟩ := h
    simp only [exec, execStreamApply, hkey, hctr, hrange, if_neg hlen, if_neg hroom]
    rfl

/-! ## The bytes of a counter block -/

theorem loadedCtr_nonce (s : State) {j : Fin 16} (hj : j.val < 12) :
    (loadedCtr s)[j] = byteOf (s.nonce.getD (j.val / 4) 0) (3 - j.val % 4) := by
  have hword : j.val / 4 < 3 := by omega
  simp [loadedCtr, nonceByte, hj, Vector.getD, Array.getD, hword]

theorem loadedCtr_seed (s : State) {j : Fin 16} (hj : 12 ≤ j.val) :
    (loadedCtr s)[j] = byteOf s.seedLo (15 - j.val) := by
  simp [loadedCtr, Nat.not_lt.2 hj]

theorem nonceKept_iff (b d : Block) : NonceKept b d ↔ ∀ j : Fin 16, j.val < 12 → d[j] = b[j] := by
  refine ⟨fun h j hj => ?_, fun h j hj => ?_⟩
  · exact (block_getD_of_lt d j.isLt).symm.trans ((h j.val hj).trans (block_getD_of_lt b j.isLt))
  · have hj16 : j < 16 := by omega
    rw [block_getD_of_lt d hj16, block_getD_of_lt b hj16]
    exact h ⟨j, hj16⟩ hj

/-- A block is its bytes 0..11 and its suffix (R200). -/
theorem eq_setSuffix_of_nonceKept {b c : Block} (h : NonceKept b c) : c = setSuffix b (suffix c) := by
  ext j hj : 1
  by_cases hlow : j < 12
  · simpa [setSuffix, hlow] using (nonceKept_iff b c).1 h ⟨j, hj⟩ hlow
  · obtain ⟨k, rfl⟩ := Nat.exists_eq_add_of_le (Nat.not_lt.1 hlow)
    have hbyte := byteOf_blockWord c 3 ⟨k, by omega⟩
    simpa [setSuffix, suffix, show 15 - (12 + k) = 3 - k by omega] using hbyte.symm

/-! ## A block as a number -/

theorem foldl_take_eq_spanNat (b : Block) {k : Nat} (hk : k ≤ 16) :
    (b.toList.take k).foldl (fun n x => 256 * n + x.toNat) 0 = spanNat b 0 k := by
  induction k with
  | zero => rfl
  | succ k ih =>
    have hlt : k < b.toList.length := by simpa using hk
    rw [List.take_succ_eq_append_getElem hlt, List.foldl_append, ih (by omega), spanNat, Nat.zero_add,
      block_getD_of_lt b hk]
    simp

theorem blockNat_eq_spanNat (b : Block) : blockNat b = spanNat b 0 16 := by
  rw [← foldl_take_eq_spanNat b (Nat.le_refl 16), blockNat, List.take_of_length_le (by simp)]

theorem spanNat_lt (b : Block) (a k : Nat) : spanNat b a k < 256 ^ k := by
  induction k with
  | zero => simp [spanNat]
  | succ k ih =>
    have hbyte := (b.getD (a + k) 0).isLt
    rw [spanNat, pow_succ]
    omega

theorem spanNat_inj {b c : Block} {a k : Nat} (h : spanNat b a k = spanNat c a k) :
    ∀ j < k, b.getD (a + j) 0 = c.getD (a + j) 0 := by
  induction k with
  | zero => simp
  | succ k ih =>
    have hb := (b.getD (a + k) 0).isLt
    have hc := (c.getD (a + k) 0).isLt
    rw [spanNat, spanNat] at h
    intro j hj
    rcases Nat.lt_succ_iff_lt_or_eq.1 hj with hlt | rfl
    · exact ih (by omega) j hlt
    · exact BitVec.eq_of_toNat_eq (by omega)

theorem blockNat_inj {b c : Block} : blockNat b = blockNat c ↔ b = c := by
  refine ⟨fun h => ?_, congrArg blockNat⟩
  rw [blockNat_eq_spanNat, blockNat_eq_spanNat] at h
  ext j hj : 1
  simpa only [Nat.zero_add, block_getD_of_lt _ hj] using spanNat_inj h j hj

theorem blockNat_lt (b : Block) : blockNat b < 2 ^ 128 := by
  rw [blockNat_eq_spanNat]
  exact spanNat_lt b 0 16

/-! ## INC (R201) -/

/-- The byte where the carry loop starts always grows by one, modulo 256. -/
theorem carryFrom_getD_first (b : Block) {n : Nat} (hn : n < 16) :
    (carryFrom b (n + 1)).getD n 0 = b.getD n 0 + 1 := by
  rw [carryFrom]
  split
  · next hmax =>
    rw [carryFrom_getD_of_ge _ (by omega) (Nat.le_refl n), block_getD_set _ _ _ _ hn, if_pos rfl, hmax]
    rfl
  · rw [block_getD_set _ _ _ _ hn, if_pos rfl]

/-- The carry loop adds one to the number of the bytes a..a+k-1, modulo its size: it stops among them, or all of them
were 0xFF and become 0. -/
theorem spanNat_carryFrom (b : Block) {a k : Nat} (hk : a + k ≤ 16) :
    spanNat (carryFrom b (a + k)) a k = (spanNat b a k + 1) % 256 ^ k := by
  induction k generalizing b with
  | zero => simp [spanNat]
  | succ k ih =>
    by_cases hmax : b.getD (a + k) 0 = 0xFF
    · have hfirst : (carryFrom b (a + k + 1)).getD (a + k) 0 = 0 := by
        rw [carryFrom_getD_first b (by omega), hmax]
        rfl
      have hcarry : carryFrom b (a + k + 1) = carryFrom (b.setIfInBounds (a + k) 0) (a + k) := if_pos hmax
      have hrest : spanNat (b.setIfInBounds (a + k) 0) a k = spanNat b a k := spanNat_congr fun j hj => by
        rw [block_getD_set _ _ _ _ (by omega), if_neg (by omega)]
      have h255 : (b.getD (a + k) 0).toNat = 255 := by rw [hmax]; rfl
      calc spanNat (carryFrom b (a + k + 1)) a (k + 1)
          = 256 * spanNat (carryFrom b (a + k + 1)) a k := by rw [spanNat, hfirst]; rfl
        _ = 256 * ((spanNat b a k + 1) % 256 ^ k) := by rw [hcarry, ih _ (by omega), hrest]
        _ = (256 * (spanNat b a k + 1)) % 256 ^ (k + 1) := by rw [pow_succ', Nat.mul_mod_mul_left]
        _ = (spanNat b a (k + 1) + 1) % 256 ^ (k + 1) := by rw [spanNat, h255, Nat.mul_succ]
    · have hroom : spanNat b a (k + 1) + 1 < 256 ^ (k + 1) := by
        have hrest := spanNat_lt b a k
        have hbyte : (b.getD (a + k) 0).toNat ≠ 255 := fun h => hmax (BitVec.eq_of_toNat_eq h)
        rw [spanNat, pow_succ]
        omega
      rw [(carryFrom_span b hk hroom).1, Nat.mod_eq_of_lt hroom]

/-- Without a carry out of the suffix, INC adds one to the suffix modulo 2^32; FAULT refuses at the maximum. -/
theorem increment_of_ne_carry128 {o : CtrOverflow} {b : Block} (ho : o ≠ .carry128)
    (hmax : ¬(o = .fault ∧ suffix b = 0xFFFFFFFF)) : increment o b = some (setSuffix b (suffix b + 1)) := by
  cases o with
  | carry128 => exact absurd rfl ho
  | suffix32 => rfl
  | fault => exact if_neg fun h => hmax ⟨rfl, h⟩

/-- Below the maximal suffix the three policies are one. -/
theorem increment_of_suffix_ne_max (o : CtrOverflow) {b : Block} (hmax : suffix b ≠ 0xFFFFFFFF) :
    increment o b = some (setSuffix b (suffix b + 1)) := by
  have hroom : (suffix b).toNat + 1 < 2 ^ 32 := by
    have := mt (word_eq_maximum_iff _).2 hmax
    omega
  obtain ⟨c, hinc, hsuffix, hkept⟩ := increment_of_room o hroom
  have hsucc : suffix c = suffix b + 1 := BitVec.eq_of_toNat_eq (hsuffix.trans (toNat_succ_of_lt hroom).symm)
  rw [hinc, ← hsucc, ← eq_setSuffix_of_nonceKept hkept]

theorem blockNat_carryFrom (b : Block) : blockNat (carryFrom b 16) = (blockNat b + 1) % 2 ^ 128 := by
  rw [blockNat_eq_spanNat, blockNat_eq_spanNat]
  exact spanNat_carryFrom b (a := 0) (k := 16) (by decide)

/-- CARRY128 gives the zero block from the block of sixteen 0xFF alone. -/
theorem carryFrom_eq_zero_iff (b : Block) :
    carryFrom b 16 = Vector.replicate 16 0 ↔ b = Vector.replicate 16 0xFF := by
  have hzero : blockNat (Vector.replicate 16 0) = 0 := by decide
  have hones : blockNat (Vector.replicate 16 0xFF) = 2 ^ 128 - 1 := by decide
  have hlt := blockNat_lt b
  rw [← blockNat_inj, ← blockNat_inj, blockNat_carryFrom, hzero, hones]
  omega

/-- CARRY128 at the maximal suffix: the suffix becomes 0 and the carry adds one to byte 11. -/
theorem carryFrom_of_suffix_max {b : Block} (hmax : suffix b = 0xFFFFFFFF) :
    suffix (carryFrom b 16) = 0 ∧ (carryFrom b 16)[11] = b[11] + 1 := by
  have hnum : spanNat b 12 4 = 2 ^ 32 - 1 := by rw [← suffix_toNat, hmax]; rfl
  have hlow := spanNat_carryFrom b (a := 12) (k := 4) (by decide)
  have hfive := spanNat_carryFrom b (a := 11) (k := 5) (by decide)
  refine ⟨BitVec.eq_of_toNat_eq ?_, BitVec.eq_of_toNat_eq ?_⟩
  · rw [suffix_toNat, hlow, hnum]
    rfl
  · rw [hnum] at hlow
    rw [BitVec.toNat_add, ← block_getD_of_lt _ (by decide), ← block_getD_of_lt b (by decide)]
    simp only [spanNat, Nat.reduceAdd] at hnum hlow hfive
    have hone : (1 : Byte).toNat = 1 := rfl
    omega

/-! ## The obligations -/

/-- Settles O20: CTR_LOAD's two checks hold, and the loaded block has the nonce and the seed. -/
theorem ctrLoadSetsNonceAndSeed : Obligations.CtrLoadSetsNonceAndSeed := fun s hseed =>
  ⟨_, exec_of_effect ⟨rfl, (seedValid_iff s).2 hseed, rfl⟩, fun _ => loadedCtr_nonce s, fun _ => loadedCtr_seed s, rfl⟩

/-- Settles O21: CTR_SETVAL's two checks hold, and only the suffix is replaced. -/
theorem ctrSetvalReplacesTheSuffix : Obligations.CtrSetvalReplacesTheSuffix := fun s hctr hseed =>
  ⟨_, exec_of_effect ⟨hctr, (seedValid_iff s).2 hseed, rfl⟩,
    (nonceKept_iff _ _).1 (setSuffix_nonceKept s.ctr s.seedLo), suffix_setSuffix s.ctr s.seedLo, rfl⟩

/-- Settles O22: CTR_SETBYTES's two checks hold, and the block read at ADDR is loaded. -/
theorem ctrSetbytesLoadsTheBlock : Obligations.CtrSetbytesLoadsTheBlock := fun s hlen hrange =>
  ⟨_, exec_of_effect ⟨(word_eq_sixteen_iff _).2 hlen, (inRange_iff s 16).2 hrange, rfl⟩,
    fun j => Memory.readBlock_getElem s.dmem s.addr.toNat j.val j.isLt, rfl⟩

/-- Settles O23: CARRY128 adds one to the whole block, the other two policies to the suffix. -/
theorem ctrIncAddsOne : Obligations.CtrIncAddsOne := by
  intro s hctr hstop
  by_cases ho : s.params.ctrOverflow = .carry128
  · have hinc : increment s.params.ctrOverflow s.ctr = some (carryFrom s.ctr 16) := by rw [ho, increment]
    exact ⟨_, exec_of_effect ⟨hctr, _, hinc, rfl⟩, fun _ => blockNat_carryFrom s.ctr, absurd ho, rfl⟩
  · have hinc := increment_of_ne_carry128 ho fun ⟨hf, hm⟩ => hstop ⟨hf, (word_eq_maximum_iff _).1 hm⟩
    refine ⟨_, exec_of_effect ⟨hctr, _, hinc, rfl⟩, fun h => absurd h ho, fun _ => ⟨?_, ?_⟩, rfl⟩
    · exact congrArg BitVec.toNat (suffix_setSuffix s.ctr (suffix s.ctr + 1))
    · exact (nonceKept_iff _ _).1 (setSuffix_nonceKept s.ctr _)

/-- Settles O24: one increment below the maximal suffix, and the three outcomes at it. -/
theorem incrementPoliciesDifferOnlyAtMaximum : Obligations.IncrementPoliciesDifferOnlyAtMaximum := by
  refine ⟨fun o b => increment_of_suffix_ne_max o, fun b hmax => ?_⟩
  obtain ⟨hsuffix, hbyte⟩ := carryFrom_of_suffix_max hmax
  refine ⟨if_pos hmax, ?_, _, rfl, hsuffix, carryFrom_eq_zero_iff b, hbyte⟩
  rw [increment, hmax]
  rfl

/-- Settles O25: CTR_CLONE's two checks hold, and the counter block is written at ADDR. -/
theorem ctrCloneStoresTheCounter : Obligations.CtrCloneStoresTheCounter := fun s hctr hrange =>
  ⟨_, exec_of_effect ⟨hctr, (inRange_iff s 16).2 hrange, rfl⟩,
    fun j => Memory.read_writeBlock_inside s.dmem s.addr.toNat s.ctr j.val j.isLt,
    fun a ha => Memory.read_writeBlock_outside s.dmem s.addr.toNat s.ctr a ha, rfl⟩

/-- Settles O26: the block at ADDR in u is the one the clone wrote, which is the counter of s. -/
theorem setbytesRestoresTheClone : Obligations.SetbytesRestoresTheClone := by
  intro s t u hclone ht haddr hlen hparams hbytes
  obtain ⟨_, hrange, rfl⟩ : Effect .ctrClone s t := effect_of_success hclone ht
  have hblock : Memory.readBlock u.dmem u.addr.toNat = s.ctr := by
    ext j hj : 1
    rw [Memory.readBlock_getElem _ _ _ hj, haddr, hbytes j hj]
    exact Memory.read_writeBlock_inside s.dmem s.addr.toNat s.ctr j hj
  have hrange' : inRange u 16 = true := by rwa [inRange, haddr, hparams]
  rw [exec_of_effect (i := .ctrSetbytes) ⟨(word_eq_sixteen_iff _).2 hlen, hrange', rfl⟩, hblock]
  rfl

end Sys2Proof.Machine
end

section
/-! PROOF. The stream engine (R230 to R236). What n bytes of the loop leave in each field is said in closed form, over the
keystream counted in blocks: REM is block 0 and ENC of CTR after k increments is block k + 1. Completion, splitting and
self-inversion of STREAM_APPLY are read off that form. -/

namespace Sys2Proof.Machine

/-! ## The keystream in blocks -/

theorem incTimes_incTimes (o : CtrOverflow) (m n : Nat) (b : Block) :
    incTimes o n (incTimes o m b) = incTimes o (m + n) b := by
  induction n with
  | zero => rfl
  | succ n ih => rw [incTimes, ih, ← Nat.add_assoc, incTimes]

/-- Block k of the keystream a STREAM_APPLY draws on: what is left of REM stands in block 0 (R232). -/
def keystreamBlock (s : State) : Nat → Block
  | 0 => s.remainder
  | k + 1 => encryptBlock s (incTimes s.params.ctrOverflow k s.ctr)

theorem keystreamByte_eq (s : State) (i : Nat) : keystreamByte s i = (keystreamBlock s (i / 16)).getD (i % 16) 0 := by
  unfold keystreamByte
  by_cases hi : i < 16
  · rw [if_pos hi, Nat.div_eq_of_lt hi, Nat.mod_eq_of_lt hi, keystreamBlock]
  · obtain ⟨k, hk⟩ := Nat.exists_eq_add_of_le' (show 1 ≤ i / 16 by omega)
    rw [if_neg hi, hk, keystreamBlock, Nat.add_sub_cancel]

theorem blocksNeeded_cursor (s : State) (n : Nat) :
    blocksNeeded s.cursor.val n = (s.cursor.val + n - 16 + 15) / 16 :=
  blocksNeeded_eq n (Nat.le_of_lt_succ s.cursor.isLt)

/-! ## One byte of the loop -/

theorem streamByte_of_full (a : Nat) {s : State} (hc : s.cursor.val = 16) :
    streamByte a s = { s with
      dmem := Memory.write s.dmem a (Memory.read s.dmem a ^^^ keystreamByte s s.cursor.val)
      remainder := keystreamBlock s 1
      ctr := advance s.params.ctrOverflow s.ctr
      cursor := 1 } := by
  have hbyte : keystreamByte s s.cursor.val = (encryptBlock s s.ctr)[0] := by
    rw [keystreamByte_eq, hc]
    exact block_getD_of_lt _ (by decide)
  rw [streamByte, if_pos hc, hbyte]
  rfl

theorem streamByte_of_pending (a : Nat) {s : State} (hc : s.cursor.val < 16) :
    streamByte a s = { s with
      dmem := Memory.write s.dmem a (Memory.read s.dmem a ^^^ keystreamByte s s.cursor.val)
      cursor := ⟨s.cursor.val + 1, by omega⟩ } := by
  have hbyte : keystreamByte s s.cursor.val = s.remainder[s.cursor.val] := by
    rw [keystreamByte, if_pos hc, block_getD_of_lt _ hc]
  rw [streamByte, if_neg (by omega), consume, dif_pos hc, hbyte]

theorem streamByte_dmem_eq (a : Nat) (s : State) :
    (streamByte a s).dmem = Memory.write s.dmem a (Memory.read s.dmem a ^^^ keystreamByte s s.cursor.val) := by
  rcases Nat.lt_succ_iff_lt_or_eq.1 s.cursor.isLt with hc | hc
  · rw [streamByte_of_pending a hc]
  · rw [streamByte_of_full a hc]

/-! ## The loop over n bytes -/

theorem encryptBlock_streamBytes (a n : Nat) (s : State) : encryptBlock (streamBytes a n s) = encryptBlock s := by
  rw [show streamBytes a n s = _ from streamBytes_frame a n s]
  rfl

theorem streamBytes_cursor (a n : Nat) (s : State) :
    (streamBytes a n s).cursor.val = s.cursor.val + n - 16 * blocksNeeded s.cursor.val n := by
  obtain ⟨k, _, hcursor, hpos⟩ := streamBytes_counter a n s
  rw [blocksNeeded_cursor]
  omega

theorem streamBytes_ctr_eq (a n : Nat) (s : State) :
    (streamBytes a n s).ctr = incTimes s.params.ctrOverflow (blocksNeeded s.cursor.val n) s.ctr := by
  rw [streamBytes_ctr, blocksNeeded_cursor]

/-- REM is the latest block generated, or as it was when none has been. -/
theorem streamBytes_remainder (a n : Nat) (s : State) :
    (streamBytes a n s).remainder = keystreamBlock s (blocksNeeded s.cursor.val n) := by
  induction n with
  | zero => rw [blocksNeeded, if_pos (Nat.zero_le _)]; rfl
  | succ n ih =>
    have hcursor := streamBytes_cursor a n s
    rw [blocksNeeded_cursor] at hcursor ih
    rw [streamBytes_succ, blocksNeeded_cursor]
    rcases Nat.lt_succ_iff_lt_or_eq.1 (streamBytes a n s).cursor.isLt with hc | hc
    · have hsame : (s.cursor.val + (n + 1) - 16 + 15) / 16 = (s.cursor.val + n - 16 + 15) / 16 := by omega
      rw [streamByte_of_pending _ hc, hsame]
      exact ih
    · have hnext : (s.cursor.val + (n + 1) - 16 + 15) / 16 = (s.cursor.val + n - 16 + 15) / 16 + 1 := by omega
      rw [streamByte_of_full _ hc, hnext, keystreamBlock, keystreamBlock, encryptBlock_streamBytes, incTimes,
        streamBytes_ctr]

/-- The blocks still to come are those of the old keystream after the ones generated. -/
theorem keystreamBlock_streamBytes (a n k : Nat) (s : State) :
    keystreamBlock (streamBytes a n s) k = keystreamBlock s (blocksNeeded s.cursor.val n + k) := by
  cases k with
  | zero => exact streamBytes_remainder a n s
  | succ k =>
    have hparams : (streamBytes a n s).params = s.params := (streamBytes_fields a n s).1
    rw [← Nat.add_assoc, keystreamBlock, keystreamBlock, encryptBlock_streamBytes, streamBytes_ctr_eq, hparams,
      incTimes_incTimes]

/-- The pending byte after n bytes is n bytes further in the old keystream. -/
theorem keystreamByte_streamBytes (a n : Nat) (s : State) :
    keystreamByte (streamBytes a n s) (streamBytes a n s).cursor.val = keystreamByte s (s.cursor.val + n) := by
  have hcursor := streamBytes_cursor a n s
  rw [blocksNeeded_cursor] at hcursor
  have hblock : (s.cursor.val + n - 16 + 15) / 16 + (streamBytes a n s).cursor.val / 16 = (s.cursor.val + n) / 16 := by
    omega
  have hplace : (streamBytes a n s).cursor.val % 16 = (s.cursor.val + n) % 16 := by omega
  rw [keystreamByte_eq, keystreamByte_eq, keystreamBlock_streamBytes, blocksNeeded_cursor, hblock, hplace]

theorem streamBytes_dmem_succ (a n : Nat) (s : State) :
    (streamBytes a (n + 1) s).dmem = Memory.write (streamBytes a n s).dmem (a + n)
      (Memory.read (streamBytes a n s).dmem (a + n) ^^^ keystreamByte s (s.cursor.val + n)) := by
  rw [streamBytes_succ, streamByte_dmem_eq, keystreamByte_streamBytes]

/-- Byte i of the range is XORed with the keystream byte i places after the pending one (R232). -/
theorem streamBytes_read_inside (a : Nat) {n i : Nat} (s : State) (hi : i < n) :
    Memory.read (streamBytes a n s).dmem (a + i)
      = Memory.read s.dmem (a + i) ^^^ keystreamByte s (s.cursor.val + i) := by
  induction n with
  | zero => omega
  | succ n ih =>
    rw [streamBytes_dmem_succ]
    rcases Nat.lt_succ_iff_lt_or_eq.1 hi with hlt | rfl
    · rw [Memory.read_write_other _ _ (by omega), ih hlt]
    · rw [Memory.read_write_same, streamBytes_read_outside _ _ _ _ (.inr (Nat.le_refl _))]

/-- The memory the loop leaves depends on the state by the old memory and the keystream alone. -/
theorem streamBytes_dmem_congr (a n : Nat) {s u : State} (hdmem : u.dmem = s.dmem)
    (hkey : ∀ i, keystreamByte u (u.cursor.val + i) = keystreamByte s (s.cursor.val + i)) :
    (streamBytes a n u).dmem = (streamBytes a n s).dmem := by
  induction n with
  | zero => exact hdmem
  | succ n ih => rw [streamBytes_dmem_succ, streamBytes_dmem_succ, ih, hkey]

/-- What the loop leaves outside the memory, in closed form. -/
theorem streamBytes_eq (a n : Nat) (s : State) :
    streamBytes a n s = { s with
      dmem := (streamBytes a n s).dmem
      ctr := incTimes s.params.ctrOverflow (blocksNeeded s.cursor.val n) s.ctr
      remainder := keystreamBlock s (blocksNeeded s.cursor.val n)
      cursor := Fin.ofNat 17 (s.cursor.val + n - 16 * blocksNeeded s.cursor.val n) } := by
  have hcursor : (streamBytes a n s).cursor = Fin.ofNat 17 _ := (Fin.ofNat_val_eq_self _).symm
  rw [← streamBytes_ctr_eq a n s, ← streamBytes_remainder a n s, ← streamBytes_cursor a n s, ← hcursor]
  exact streamBytes_frame a n s

/-! ## What the loop does not read -/

/-- The state with other words in ERR, ADDR and LEN, which the loop does not read. -/
def State.withOperands (s : State) (e : ErrorCode) (addr len : Word) : State :=
  { s with err := e, addr := addr, len := len }

theorem streamBytes_withOperands (a n : Nat) (s : State) (e : ErrorCode) (addr len : Word) :
    streamBytes a n (s.withOperands e addr len) = (streamBytes a n s).withOperands e addr len := by
  have hdmem : (streamBytes a n (s.withOperands e addr len)).dmem = (streamBytes a n s).dmem :=
    streamBytes_dmem_congr a n rfl fun _ => rfl
  rw [streamBytes_eq a n (s.withOperands e addr len), hdmem, streamBytes_eq a n s]
  rfl

/-! ## The loop run twice (R236) -/

/-- CTR, REM and CURSOR put back after the loop: only the memory is the loop's. -/
theorem streamBytes_restart (a n : Nat) (s : State) :
    { (streamBytes a n s).complete with ctr := s.ctr, remainder := s.remainder, cursor := s.cursor }
      = (s.setDmem (streamBytes a n s).dmem).complete := by
  rw [show streamBytes a n s = _ from streamBytes_frame a n s]
  rfl

/-- In a canonical memory, the second loop XORs each byte with the same keystream byte as the first. -/
theorem streamBytes_dmem_twice (a n : Nat) {s : State} (hs : Memory.wf s.dmem = true) :
    (streamBytes a n (s.setDmem (streamBytes a n s).dmem).complete).dmem = s.dmem := by
  have hkey : ∀ m i, keystreamByte (s.setDmem m).complete i = keystreamByte s i := fun _ _ => rfl
  refine Memory.ext_of_read (streamBytes_wf (s := (s.setDmem _).complete) (streamBytes_wf hs a n) a n) hs fun b => ?_
  by_cases hb : b < a ∨ a + n ≤ b
  · rw [streamBytes_read_outside _ _ _ _ hb]
    exact streamBytes_read_outside _ _ _ _ hb
  · obtain ⟨i, rfl⟩ := Nat.exists_eq_add_of_le (show a ≤ b by omega)
    have hi : i < n := by omega
    rw [streamBytes_read_inside a _ hi, hkey]
    simp only [State.complete_dmem, State.setDmem_dmem, State.complete_cursor, State.setDmem_cursor]
    rw [streamBytes_read_inside a s hi, BitVec.xor_assoc, BitVec.xor_self, BitVec.xor_zero]

/-- The second loop ends as the first, but for the memory, which is as before both. -/
theorem streamBytes_twice (a n : Nat) {s : State} (hs : Memory.wf s.dmem = true) :
    (streamBytes a n (s.setDmem (streamBytes a n s).dmem).complete).complete
      = (streamBytes a n s).complete.setDmem s.dmem := by
  rw [streamBytes_eq a n (s.setDmem (streamBytes a n s).dmem).complete, streamBytes_dmem_twice a n hs,
    streamBytes_eq a n s]
  rfl

/-! ## The exhaustion check (R234) -/

theorem increment_fault_eq_none_iff (b : Block) : increment .fault b = none ↔ (suffix b).toNat = 2 ^ 32 - 1 := by
  rw [← word_eq_maximum_iff, increment]
  split
  · next hmax => exact iff_of_true rfl hmax
  · next hmax => exact iff_of_false (Option.some_ne_none _) hmax

/-- A suffix is below 2^32, so a command that generates no block never exhausts. -/
theorem exhausts_suffix_iff (c : Nat) (b : Block) (len : Nat) :
    exhausts c (suffix b).toNat len = true ↔ 2 ^ 32 ≤ (suffix b).toNat + blocksNeeded c len := by
  have hlt := (suffix b).isLt
  rw [exhausts, decide_eq_true_eq]
  omega

/-- One of k increments under FAULT is refused exactly when they would carry the suffix past its maximum. -/
theorem exists_refused_iff (b : Block) (k : Nat) :
    (∃ j, j < k ∧ increment .fault (incTimes .fault j b) = none) ↔ 2 ^ 32 ≤ (suffix b).toNat + k := by
  have hlt := (suffix b).isLt
  simp only [increment_fault_eq_none_iff]
  constructor
  · rintro ⟨j, hj, hmax⟩
    by_contra hroom
    rw [suffix_incTimes .fault (by omega)] at hmax
    omega
  · intro hfull
    refine ⟨2 ^ 32 - 1 - (suffix b).toNat, by omega, ?_⟩
    rw [suffix_incTimes .fault (by omega)]
    omega

/-! ## The checks of STREAM_APPLY -/

/-- The checks of R232, in plain arithmetic. -/
structure StreamReady (s : State) : Prop where
  key : s.keyValid = true
  counter : s.ctrValid = true
  nonempty : 1 ≤ s.len.toNat
  range : s.addr.toNat + s.len.toNat ≤ s.params.dmemBytes
  room : s.params.ctrOverflow = .fault → (suffix s.ctr).toNat + blocksNeeded s.cursor.val s.len.toNat < 2 ^ 32

theorem effect_streamApply_iff (s t : State) :
    Effect .streamApply s t ↔ StreamReady s ∧ t = (streamBytes s.addr.toNat s.len.toNat s).complete := by
  have hlen : s.len ≠ 0 ↔ 1 ≤ s.len.toNat := by
    rw [Ne, word_eq_zero_iff]
    omega
  simp only [Effect, hlen, inRange_iff, exhausts_suffix_iff, not_and, not_le]
  exact ⟨fun ⟨hkey, hctr, hne, hrange, hroom, ht⟩ => ⟨⟨hkey, hctr, hne, hrange, hroom⟩, ht⟩,
    fun ⟨⟨hkey, hctr, hne, hrange, hroom⟩, ht⟩ => ⟨hkey, hctr, hne, hrange, hroom, ht⟩⟩

theorem StreamReady.exec {s : State} (h : StreamReady s) :
    exec .streamApply s = .next (streamBytes s.addr.toNat s.len.toNat s).complete :=
  exec_of_effect ((effect_streamApply_iff s _).2 ⟨h, rfl⟩)

/-- The first m bytes of a message whose checks hold. -/
theorem StreamReady.first {s : State} {m : Word} (h : StreamReady s) (hm : 1 ≤ m.toNat) (hlen : m.toNat ≤ s.len.toNat) :
    StreamReady (s.withOperands s.err s.addr m) := by
  obtain ⟨hkey, hctr, _, hrange, hroom⟩ := h
  refine ⟨hkey, hctr, hm, Nat.le_trans (Nat.add_le_add_left hlen _) hrange, fun ho => ?_⟩
  have := hroom ho
  rw [blocksNeeded_cursor] at this ⊢
  simp only [State.withOperands]
  omega

/-- The other n bytes: the blocks of the two pieces add up to those of the whole. -/
theorem StreamReady.rest {s : State} {addr m n : Word} {e : ErrorCode} (h : StreamReady s) (hn : 1 ≤ n.toNat)
    (hlen : s.len.toNat = m.toNat + n.toNat) (haddr : addr.toNat = s.addr.toNat + m.toNat) :
    StreamReady ((streamBytes s.addr.toNat m.toNat s).withOperands e addr n) := by
  obtain ⟨hkey, hctr, _, hrange, hroom⟩ := h
  have hparams : (streamBytes s.addr.toNat m.toNat s).params = s.params := (streamBytes_fields _ _ s).1
  refine ⟨?_, ?_, hn, ?_, ?_⟩
  · simpa [State.withOperands, streamBytes_fields] using hkey
  · simpa [State.withOperands, streamBytes_fields] using hctr
  · simp only [State.withOperands, hparams]
    omega
  · simp only [State.withOperands, hparams]
    intro ho
    have hfit := hroom ho
    have hcursor := streamBytes_cursor s.addr.toNat m.toNat s
    simp only [blocksNeeded_cursor] at hfit hcursor ⊢
    rw [streamBytes_ctr, suffix_incTimes _ (by omega)]
    omega

/-- The checks read neither the memory nor ERR. -/
theorem StreamReady.again {s : State} (h : StreamReady s) (m : Memory) : StreamReady (s.setDmem m).complete :=
  ⟨h.key, h.counter, h.nonempty, h.range, h.room⟩

theorem dmemBytes_le_of_inv {s : State} (hs : s.inv = true) : s.params.dmemBytes ≤ 2 ^ 20 := by
  have hparams := ((State.inv_iff s).1 hs).1
  simp only [paramsLegal, Bool.and_eq_true, decide_eq_true_eq] at hparams
  obtain ⟨⟨⟨⟨_, hle⟩, _⟩, _⟩, _⟩ := hparams
  exact hle

/-! ## The obligations -/

/-- Settles O31: the check says that the blocks of the command carry the suffix past its maximum. -/
theorem exhaustionCheckIsExact : Obligations.ExhaustionCheckIsExact := by
  intro c b len
  rw [exhausts_suffix_iff, exists_refused_iff, blocksNeeded_eq len (Nat.le_of_lt_succ c.isLt)]

/-- Settles O28: the closed form of the loop over LEN bytes. -/
theorem streamApplyXorsTheKeystream : Obligations.StreamApplyXorsTheKeystream := by
  intro s k hkey hctr hne hrange hk hroom
  rw [← blocksNeeded_cursor] at hk
  subst hk
  have hready : StreamReady s := ⟨hkey, hctr, hne, hrange, fun ho => by
    have := (suffix s.ctr).isLt
    have := hroom ho
    omega⟩
  have hrem := streamBytes_remainder s.addr.toNat s.len.toNat s
  refine ⟨_, hready.exec, fun i => streamBytes_read_inside _ s, fun a => streamBytes_read_outside _ _ a s,
    streamBytes_ctr_eq _ _ s, streamBytes_cursor _ _ s, fun hzero => ?_, fun hpos => ?_, ?_⟩
  · rw [State.complete_remainder, hrem, hzero, keystreamBlock]
  · obtain ⟨j, hj⟩ := Nat.exists_eq_add_of_le' hpos
    rw [State.complete_remainder, hrem, hj, keystreamBlock, Nat.add_sub_cancel]
  · exact congrArg State.complete (streamBytes_frame s.addr.toNat s.len.toNat s)

/-- Settles O29: the loop splits at any byte, and it does not read the operands that change between the pieces. -/
theorem streamApplySplitsAnywhere : Obligations.StreamApplySplitsAnywhere := by
  intro s t m n hs h ht hm hn hlen
  obtain ⟨hready, rfl⟩ := (effect_streamApply_iff s t).1 (effect_of_success h ht)
  have hfirst := (hready.first hm (by omega)).exec
  have haddr : (s.addr + m).toNat = s.addr.toNat + m.toNat := by
    have hle := dmemBytes_le_of_inv hs
    have hrange := hready.range
    rw [BitVec.toNat_add, Nat.mod_eq_of_lt (by omega)]
  have hrest := (hready.rest (e := .success) hn hlen haddr).exec
  refine ⟨_, hfirst, rfl, ?_⟩
  rw [streamBytes_withOperands]
  refine hrest.trans ?_
  rw [streamBytes_withOperands, hlen, streamBytes_append, ← haddr]
  rfl

/-- Settles O30: with CTR, REM and CURSOR put back the checks hold again, and the second loop undoes the first. -/
theorem streamApplyIsSelfInverse : Obligations.StreamApplyIsSelfInverse := by
  intro s t hs h ht
  obtain ⟨hready, rfl⟩ := (effect_streamApply_iff s t).1 (effect_of_success h ht)
  obtain ⟨_, _, _, hdmem⟩ := (State.inv_iff s).1 hs
  rw [streamBytes_restart, (hready.again _).exec]
  exact congrArg Host.Outcome.next (streamBytes_twice _ _ ((dmemLegal_iff s).1 hdmem).1)

/-- Settles O27: STREAM_RESET has no check. -/
theorem streamResetEmptiesTheStream : Obligations.StreamResetEmptiesTheStream := fun _ =>
  ⟨_, exec_of_effect (i := .streamReset) rfl, rfl⟩

end Sys2Proof.Machine
end

section
/-! PROOF. The cipher handler (R250 to R257): what the ten transactions of ENCRYPT leave is said once, as the loop of
STREAM_APPLY run from a message's start, and the keystream, the round trip and determinism are read off it. -/

namespace Sys2Proof.Machine

/-! ## Runs in pieces -/

/-- A run goes on from where its first j steps end. -/
theorem run_add {j : Nat} {s t : State} (h : Host.Core.run Sys2Proof.core j s = .next t) (k : Nat) :
    Host.Core.run Sys2Proof.core (j + k) s = Host.Core.run Sys2Proof.core k t := by
  induction j generalizing s with
  | zero =>
    cases h
    rw [Nat.zero_add]
  | succ j ih =>
    cases hstep : step s with
    | next u =>
      rw [run_succ hstep] at h
      rw [Nat.succ_add, run_succ hstep, ih h]
    | fault r => exact nomatch r
    | refused r =>
      have hcore : Sys2Proof.core.step s = .refused r := hstep
      simp only [Host.Core.run, hcore] at h
      cases h

/-- A run that starts with `wr` of an operand register (R106). -/
theorem run_wr_operand {s : State} {off k : Nat} {v : Word} {rest : List HostEvent} (r : OperandReg)
    (hhost : s.host = wr off v :: rest) (hoff : portOffset r.port = some off) :
    Host.Core.run Sys2Proof.core (k + 1) s
      = Host.Core.run Sys2Proof.core k (writeReg r.port v (s.takeEvent rest).nextEpoch) :=
  run_succ (step_write hhost (by cases r <;> cases hoff <;> omega) (portReg_operand hoff _)
    (by cases r <;> exact fun h => nomatch h)) k

/-- A run that starts with a command whose checks hold (R106, R107). -/
theorem run_mnemonic {s t : State} (i : Instr) {k : Nat} {rest : List HostEvent} (hhost : s.host = cmd i :: rest)
    (hwf : i.wellFormed = true) (h : Effect i (s.takeEvent rest).nextEpoch t) :
    Host.Core.run Sys2Proof.core (k + 1) s = Host.Core.run Sys2Proof.core k t :=
  run_succ ((stepRunsDecodedCommand s _ rest i hhost (decodeInvertsEncode i hwf)).trans (exec_of_effect h)) k

/-! ## The nonce and the seed -/

/-- Byte 4i + k of a string is byte k, in big-endian order, of its word i. -/
theorem byteOf_stringWord (bs : List Byte) (i : Nat) {k : Nat} (hk : k < 4) :
    byteOf (stringWord bs i) (3 - k) = bs.getD (4 * i + k) 0 := by
  interval_cases k <;> simp [stringWord]

/-- The words setnonce writes to NONCE0..NONCE2 (R109). -/
def nonceWords (nonce : List Byte) : Vector Word 3 := Vector.ofFn fun i => stringWord nonce i.val

/-- The three writes of setnonce (R109). -/
theorem run_setnonce {s : State} {nonce : List Byte} {rest : List HostEvent}
    (hhost : s.host = setnonceSequence nonce ++ rest) :
    Host.Core.run Sys2Proof.core 3 s
      = .next { s with nonce := nonceWords nonce, host := rest, readData := none, epoch := s.epoch + 3 } := by
  have hwords : ((s.nonce.set 0 (stringWord nonce 0)).set 1 (stringWord nonce 1)).set 2 (stringWord nonce 2)
      = nonceWords nonce := by
    ext i hi : 1
    interval_cases i <;> simp [nonceWords]
  rw [run_wr_operand (.nonce 0) hhost rfl, run_wr_operand (.nonce 1) rfl rfl, run_wr_operand (.nonce 2) rfl rfl,
    ← hwords]
  simp only [writeReg, OperandReg.port, State.takeEvent, State.nextEpoch]
  rfl

/-- The two writes of setseed (R110). -/
theorem run_setseed {s : State} {v : Nat} {rest : List HostEvent} (hhost : s.host = setseedSequence v ++ rest) :
    Host.Core.run Sys2Proof.core 2 s = .next { s with
      seedLo := BitVec.ofNat 32 (v % 2 ^ 32), seedHi := BitVec.ofNat 32 (v / 2 ^ 32)
      host := rest, readData := none, epoch := s.epoch + 2 } := by
  rw [run_wr_operand .seedLo hhost rfl, run_wr_operand .seedHi rfl rfl]
  rfl

/-- CTR_LOAD makes N ∥ v of what setnonce and setseed have written (R203, R250). -/
theorem loadedCtr_eq_nonceBlock {s : State} {nonce : List Byte} {v : Nat} (hnonce : s.nonce = nonceWords nonce)
    (hseed : s.seedLo = BitVec.ofNat 32 v) : loadedCtr s = nonceBlock nonce v := by
  ext j hj : 1
  by_cases hlow : j < 12
  · have hbyte := byteOf_stringWord nonce (j / 4) (Nat.mod_lt j (by decide : 0 < 4))
    rw [Nat.div_add_mod] at hbyte
    simpa [loadedCtr, nonceBlock, hlow, nonceByte, hnonce, nonceWords] using hbyte
  · simp [loadedCtr, nonceBlock, hlow, hseed]

theorem suffix_nonceBlock (nonce : List Byte) (v : Nat) : suffix (nonceBlock nonce v) = BitVec.ofNat 32 v := by
  simp [suffix, blockWord, nonceBlock]

/-! ## The transactions of ENCRYPT -/

/-- s where the STREAM_APPLY of `ENCRYPT a, n, N, v` finds it, with the events of rest still to come (R112). -/
def messageStart (a n : Word) (nonce : List Byte) (v : Nat) (rest : List HostEvent) (s : State) : State :=
  { s with
    addr := a, len := n, nonce := nonceWords nonce, seedLo := BitVec.ofNat 32 v, seedHi := 0
    err := .success, ctrValid := true, ctr := nonceBlock nonce v, cursor := 16
    host := rest, readData := none, epoch := s.epoch + 10 }

/-- s after the ten transactions of `ENCRYPT a, n, N, v` (R250). -/
def encrypted (a n : Word) (nonce : List Byte) (v : Nat) (rest : List HostEvent) (s : State) : State :=
  (streamBytes a.toNat n.toNat (messageStart a n nonce v rest s)).complete

/-- What R250 and R252 ask of an ENCRYPT. -/
structure EncryptReady (s : State) (a n : Word) (v : Nat) : Prop where
  key : s.keyValid = true
  nonempty : 1 ≤ n.toNat
  range : a.toNat + n.toNat ≤ s.params.dmemBytes
  seed : v < 2 ^ 32
  room : counterSuffices s.params.ctrOverflow v n.toNat

section
variable {s : State} {a n : Word} {v : Nat}

/-- The checks of STREAM_APPLY hold: from CURSOR 16 the message takes one block for each 16 bytes begun (R234). -/
theorem EncryptReady.stream (h : EncryptReady s a n v) (nonce : List Byte) (rest : List HostEvent) :
    StreamReady (messageStart a n nonce v rest s) := by
  refine ⟨h.key, rfl, h.nonempty, h.range, fun ho => ?_⟩
  have hroom := h.room ho
  have hseed := h.seed
  have hblocks : blocksNeeded 16 n.toNat = (16 + n.toNat - 16 + 15) / 16 := blocksNeeded_eq _ (Nat.le_refl 16)
  change (suffix (nonceBlock nonce v)).toNat + blocksNeeded 16 n.toNat < 2 ^ 32
  rw [suffix_nonceBlock, BitVec.toNat_ofNat, hblocks]
  omega

/-- CTR_LOAD and STREAM_RESET, once setnonce and setseed have written the nonce and the value (R203, R231). -/
theorem run_loadCounter {nonce : List Byte} {rest : List HostEvent}
    (hhost : s.host = cmd (.ctrLoad 12) :: cmd .streamReset :: rest) (hnonce : s.nonce = nonceWords nonce)
    (hlo : s.seedLo = BitVec.ofNat 32 v) (hhi : s.seedHi = 0) :
    Host.Core.run Sys2Proof.core 2 s = .next { s with
      err := .success, ctrValid := true, ctr := nonceBlock nonce v, cursor := 16
      host := rest, readData := none, epoch := s.epoch + 2 } := by
  have hvalid : seedValid s = true := by simpa [seedValid_iff, hhi] using s.seedLo.isLt
  rw [run_mnemonic _ hhost rfl ⟨rfl, hvalid, rfl⟩,
    loadedCtr_eq_nonceBlock (s := (s.takeEvent _).nextEpoch) hnonce hlo, run_mnemonic .streamReset rfl rfl rfl]
  simp only [State.complete, State.setCursor, State.loadCtr, State.takeEvent, State.nextEpoch]
  rfl

/-- ADDR, LEN and STREAM_APPLY, where its checks hold. -/
theorem run_applyRange {rest : List HostEvent}
    (hhost : s.host = wr 0x008 a :: wr 0x00C n :: cmd .streamApply :: rest)
    (h : StreamReady { s with addr := a, len := n, host := rest, readData := none, epoch := s.epoch + 3 }) :
    Host.Core.run Sys2Proof.core 3 s = .next (streamBytes a.toNat n.toNat
      { s with addr := a, len := n, host := rest, readData := none, epoch := s.epoch + 3 }).complete := by
  rw [run_wr_operand .addr hhost rfl, run_wr_operand .len rfl rfl]
  exact run_mnemonic .streamApply rfl rfl ((effect_streamApply_iff _ _).2 ⟨h, rfl⟩)

/-- The ten transactions: setnonce, setseed, the counter's load and the range's XOR (R112). -/
theorem EncryptReady.run (h : EncryptReady s a n v) {nonce : List Byte} {rest : List HostEvent}
    (hhost : s.host = encryptSequence a n nonce v ++ rest) :
    Host.Core.run Sys2Proof.core 10 s = .next (encrypted a n nonce v rest s) := by
  rw [encryptSequence, List.append_assoc, List.append_assoc] at hhost
  have hlo : v % 2 ^ 32 = v := Nat.mod_eq_of_lt h.seed
  have hhi : v / 2 ^ 32 = 0 := Nat.div_eq_of_lt h.seed
  rw [run_add (run_setnonce hhost) 7, run_add (run_setseed rfl) 5, hlo, hhi,
    run_add (run_loadCounter rfl rfl rfl rfl) 3]
  exact run_applyRange rfl (h.stream nonce rest)

end

/-! ## What ENCRYPT leaves -/

/-- The keystream of a message is a function of the key, the parameters, the nonce and the value (R257). -/
theorem messageKeystreamByte_congr {s u : State} (hparams : u.params = s.params) (hnr : u.nr = s.nr)
    (hek : u.ek = s.ek) (nonce : List Byte) (v i : Nat) :
    messageKeystreamByte u nonce v i = messageKeystreamByte s nonce v i := by
  simp only [messageKeystreamByte, encryptBlock, hparams, hnr, hek]

/-- The conditions on an ENCRYPT are about the key and the parameters alone. -/
theorem EncryptReady.congr {s u : State} {a n : Word} {v : Nat} (h : EncryptReady s a n v) (hkey : u.keyValid = true)
    (hparams : u.params = s.params) : EncryptReady u a n v :=
  ⟨hkey, h.nonempty, hparams ▸ h.range, h.seed, hparams ▸ h.room⟩

section
variable (a n : Word) (nonce : List Byte) (v : Nat) (rest : List HostEvent) (s : State)

@[simp] theorem encrypted_host : (encrypted a n nonce v rest s).host = rest := by
  simp [encrypted, streamBytes_fields, messageStart]

@[simp] theorem encrypted_params : (encrypted a n nonce v rest s).params = s.params := by
  simp [encrypted, streamBytes_fields, messageStart]

@[simp] theorem encrypted_keyValid : (encrypted a n nonce v rest s).keyValid = s.keyValid := by
  simp [encrypted, streamBytes_fields, messageStart]

@[simp] theorem encrypted_nr : (encrypted a n nonce v rest s).nr = s.nr := by
  simp [encrypted, streamBytes_fields, messageStart]

@[simp] theorem encrypted_ek : (encrypted a n nonce v rest s).ek = s.ek := by
  simp [encrypted, streamBytes_fields, messageStart]

/-- One increment for each block of the message (R234). -/
theorem encrypted_ctr : (encrypted a n nonce v rest s).ctr
    = incTimes s.params.ctrOverflow (blocksNeeded 16 n.toNat) (nonceBlock nonce v) :=
  streamBytes_ctr_eq _ _ _

theorem encrypted_cursor :
    (encrypted a n nonce v rest s).cursor.val = 16 + n.toNat - 16 * blocksNeeded 16 n.toNat :=
  streamBytes_cursor _ _ _

/-- From CURSOR 16 the stream draws on the blocks ENC(N ∥ v), ENC(INC(N ∥ v)), ... (R250). -/
theorem keystreamByte_messageStart (i : Nat) :
    keystreamByte (messageStart a n nonce v rest s) (16 + i) = messageKeystreamByte s nonce v i := by
  have hblock : (16 + i) / 16 - 1 = i / 16 := by omega
  rw [keystreamByte, if_neg (by omega), hblock, Nat.add_mod_left]
  rfl

variable {a n nonce v rest s}

theorem encrypted_read_inside {i : Nat} (hi : i < n.toNat) :
    Memory.read (encrypted a n nonce v rest s).dmem (a.toNat + i)
      = Memory.read s.dmem (a.toNat + i) ^^^ messageKeystreamByte s nonce v i := by
  rw [← keystreamByte_messageStart a n nonce v rest]
  exact streamBytes_read_inside _ _ hi

theorem encrypted_read_outside {b : Nat} (hb : b < a.toNat ∨ a.toNat + n.toNat ≤ b) :
    Memory.read (encrypted a n nonce v rest s).dmem b = Memory.read s.dmem b :=
  streamBytes_read_outside _ _ _ _ hb

/-- A second ENCRYPT with the same nonce and value XORs each byte with the same keystream byte as the first (R252). -/
theorem encrypted_twice_read {more : List HostEvent} (b : Nat) :
    Memory.read (encrypted a n nonce v more (encrypted a n nonce v rest s)).dmem b = Memory.read s.dmem b := by
  by_cases hb : b < a.toNat ∨ a.toNat + n.toNat ≤ b
  · rw [encrypted_read_outside hb, encrypted_read_outside hb]
  · obtain ⟨i, rfl⟩ := Nat.exists_eq_add_of_le (show a.toNat ≤ b by omega)
    have hi : i < n.toNat := by omega
    rw [encrypted_read_inside hi, encrypted_read_inside hi,
      messageKeystreamByte_congr (encrypted_params ..) (encrypted_nr ..) (encrypted_ek ..), BitVec.xor_assoc,
      BitVec.xor_self, BitVec.xor_zero]

end

/-! ## The obligations -/

/-- Settles O32: the ten transactions leave the message XORed with the keystream. -/
theorem encryptSequenceXorsTheKeystream : Obligations.EncryptSequenceXorsTheKeystream := by
  intro s a n nonce v hkey hne hrange _ hv hroom
  have hready : EncryptReady { s with host := encryptSequence a n nonce v } a n v := ⟨hkey, hne, hrange, hv, hroom⟩
  exact ⟨_, hready.run (List.append_nil _).symm, encrypted_host .., rfl,
    fun _ => encrypted_read_inside, fun _ => encrypted_read_outside⟩

/-- Settles O33: the ten transactions twice, DECRYPT's list being ENCRYPT's (R113). -/
theorem decryptSequenceRestoresThePlaintext : Obligations.DecryptSequenceRestoresThePlaintext := by
  intro s a n nonce v hkey hne hrange _ hv hroom
  have hready : EncryptReady { s with host := encryptSequence a n nonce v ++ decryptSequence a n nonce v } a n v :=
    ⟨hkey, hne, hrange, hv, hroom⟩
  have hagain := hready.congr ((encrypted_keyValid a n nonce v (decryptSequence a n nonce v) _).trans hkey)
    (encrypted_params ..)
  have hdecrypt := hagain.run ((encrypted_host ..).trans (List.append_nil _).symm)
  exact ⟨_, (run_add (hready.run rfl) 10).trans hdecrypt, encrypted_host .., rfl, encrypted_twice_read⟩

/-- Settles O34: the plaintext and the keystream are the same, and so are the counter and the cursor. -/
theorem encryptSequenceIsDeterministic : Obligations.EncryptSequenceIsDeterministic := by
  intro s u a n nonce v hkey hne hrange _ hv hroom hukey hparams hnr hek hplain
  have hready : EncryptReady { s with host := encryptSequence a n nonce v } a n v := ⟨hkey, hne, hrange, hv, hroom⟩
  have huready : EncryptReady { u with host := encryptSequence a n nonce v } a n v := hready.congr hukey hparams
  refine ⟨_, _, hready.run (List.append_nil _).symm, huready.run (List.append_nil _).symm, fun i hi => ?_, ?_,
    Fin.ext ?_⟩
  · rw [encrypted_read_inside hi, encrypted_read_inside hi]
    exact congrArg₂ (· ^^^ ·) (hplain i hi) (messageKeystreamByte_congr hparams hnr hek nonce v i)
  · rw [encrypted_ctr, encrypted_ctr]
    exact congrArg (fun p : Params => incTimes p.ctrOverflow _ _) hparams
  · rw [encrypted_cursor, encrypted_cursor]

end Sys2Proof.Machine
end

section
/-! PROOF. The errors (R270 to R276): a failing command's whole effect is its raise, STICKY changes by a failing command
or a reset alone, and each command reports the first failing check of its row in R272. -/

namespace Sys2Proof.Machine

/-! ## ERR and STICKY -/

theorem Raised.eq_raise {s t : State} (h : Raised s t) : t = s.raise t.err := by
  obtain ⟨e, _, rfl⟩ := h
  rfl

/-- Settles O7: a command that reports an error has not had its effect, so it was raised. -/
theorem failingCommandChangesOnlyErrAndSticky : Obligations.FailingCommandChangesOnlyErrAndSticky := by
  intro v s t hrun herr
  rcases runCommand_effect hrun with hraised | ⟨i, _, heffect⟩
  · exact hraised.eq_raise
  · exact absurd heffect.err herr

theorem runCommand_sticky {v : Word} {s t : State} (h : runCommand v s = .next t) :
    (t.err = .success ∧ t.sticky = s.sticky) ∨ (t.err ≠ .success ∧ t.sticky = true) := by
  rcases runCommand_effect h with ⟨e, he, rfl⟩ | ⟨i, _, heffect⟩
  · exact .inr ⟨he, rfl⟩
  · obtain ⟨_, _, _, _, _, _, _, herr, hsticky, _⟩ := effect_frame heffect
    exact .inl ⟨herr, hsticky⟩

/-- What a step can do to STICKY (R275). -/
theorem step_sticky {s t : State} (h : step s = .next t) :
    t.sticky = s.sticky
      ∨ (t.sticky = true ∧ t.err ≠ .success ∧ ∃ v rest, s.host = issue v :: rest)
      ∨ (t.sticky = false ∧ ∃ rest, s.host = .reset :: rest) := by
  rcases step_cases h with ⟨_, rfl⟩ | ⟨off, rest, _, _, rfl⟩ | ⟨off, v, rest, hhost, _, hcmd, hrun⟩
    | ⟨off, v, rest, _, _, _, rfl⟩ | ⟨rest, hhost, rfl⟩
  · exact .inl rfl
  · exact .inl rfl
  · obtain rfl := portReg_eq_cmd hcmd
    rcases runCommand_sticky hrun with ⟨_, hkept⟩ | ⟨herr, hset⟩
    · exact .inl hkept
    · exact .inr (.inl ⟨hset, herr, v, rest, hhost⟩)
  · obtain ⟨_, _, hsticky, _⟩ := writeReg_fields (portReg s.params.dmemBytes off) v (s.takeEvent rest).nextEpoch
    exact .inl hsticky
  · exact .inr (.inr ⟨rfl, rest, hhost⟩)

/-- Settles O8, by what a command and a step can do to STICKY. -/
theorem stickyRecordsFailuresUntilReset : Obligations.StickyRecordsFailuresUntilReset := by
  refine ⟨fun v s t hrun herr => ?_, fun s t hstep hclear hset => ?_, fun s t hstep hset hclear => ?_⟩
  · rcases runCommand_sticky hrun with ⟨_, hkept⟩ | ⟨hfail, _⟩
    · exact hkept
    · exact absurd herr hfail
  · rcases step_sticky hstep with hkept | ⟨_, hfailed⟩ | ⟨hcleared, _⟩
    · simp [hkept, hclear] at hset
    · exact hfailed
    · simp [hcleared] at hset
  · rcases step_sticky hstep with hkept | ⟨hraised, _⟩ | ⟨_, hreset⟩
    · simp [hkept, hset] at hclear
    · simp [hraised] at hclear
    · exact hreset

/-! ## The checks in order -/

/-- The result r of a command at s is an answer with ERR = e, and an error is the answer's only change. -/
def Reports (s : State) (r : Result) (e : ErrorCode) : Prop :=
  ∃ t, r = .next t ∧ (t.err ≠ .success → t = s.raise t.err) ∧ t.err = e

theorem reports_raiseError (e : ErrorCode) (s : State) : Reports s (raiseError e s) e :=
  ⟨s.raise e, rfl, fun _ => rfl, rfl⟩

theorem reports_succeed (s t : State) : Reports s (succeed t) .success :=
  ⟨t.complete, rfl, fun herr => absurd rfl herr, rfl⟩

/-- A check p of the model, said as q: where it fails the command reports e, and elsewhere what it reports after it. -/
theorem Reports.check {s : State} {r : Result} {e f : ErrorCode} {p q : Prop} [Decidable p] [Decidable q]
    (hpq : p ↔ q) (hr : Reports s r f) : Reports s (if p then raiseError e s else r) (if q then e else f) := by
  by_cases hq : q
  · rw [if_pos (hpq.2 hq), if_pos hq]
    exact reports_raiseError e s
  · rw [if_neg (mt hpq.1 hq), if_neg hq]
    exact hr

theorem increment_eq_none_iff (o : CtrOverflow) (b : Block) :
    increment o b = none ↔ o = .fault ∧ (suffix b).toNat = 2 ^ 32 - 1 := by
  cases o with
  | carry128 => simp [increment]
  | suffix32 => simp [increment]
  | fault => simp [increment_fault_eq_none_iff]

theorem execKeyExpand_reports (n : Nat) (s : State) :
    Reports s (execKeyExpand n s)
      (if n = 0 then .keyMissing else if n ≠ 16 ∧ n ≠ 24 ∧ n ≠ 32 then .keySizeInvalid else .success) :=
  .check .rfl <| .check .rfl <| reports_succeed ..

theorem blockCommand_reports (f : Block → Block) (s : State) :
    Reports s (blockCommand f s)
      (if s.keyValid = false then .keyMissing else if s.len.toNat ≠ 16 then .blockLengthInvalid
        else if s.params.dmemBytes < s.addr.toNat + 16 then .rangeInvalid else .success) :=
  .check .rfl <| .check (word_eq_sixteen_iff _).not <| .check (inRange_eq_false_iff s 16) <| reports_succeed ..

theorem execCtrLoad_reports (n : Nat) (s : State) :
    Reports s (execCtrLoad n s)
      (if n ≠ 12 then .nonceSizeInvalid
        else if 2 ^ 32 ≤ s.seedHi.toNat * 2 ^ 32 + s.seedLo.toNat then .counterValueInvalid else .success) :=
  .check .rfl <| .check (seedValid_eq_false_iff s) <| reports_succeed ..

theorem execCtrSetval_reports (s : State) :
    Reports s (execCtrSetval s)
      (if s.ctrValid = false then .counterMissing
        else if 2 ^ 32 ≤ s.seedHi.toNat * 2 ^ 32 + s.seedLo.toNat then .counterValueInvalid else .success) :=
  .check .rfl <| .check (seedValid_eq_false_iff s) <| reports_succeed ..

theorem execCtrSetbytes_reports (s : State) :
    Reports s (execCtrSetbytes s)
      (if s.len.toNat ≠ 16 then .counterValueInvalid
        else if s.params.dmemBytes < s.addr.toNat + 16 then .rangeInvalid else .success) :=
  .check (word_eq_sixteen_iff _).not <| .check (inRange_eq_false_iff s 16) <| reports_succeed ..

theorem execCtrInc_reports (s : State) :
    Reports s (execCtrInc s)
      (if s.ctrValid = false then .counterMissing
        else if s.params.ctrOverflow = .fault ∧ (suffix s.ctr).toNat = 2 ^ 32 - 1 then .counterExhausted
        else .success) := by
  refine .check .rfl ?_
  cases hinc : increment s.params.ctrOverflow s.ctr with
  | none =>
    rw [if_pos ((increment_eq_none_iff _ _).1 hinc)]
    exact reports_raiseError ..
  | some b =>
    rw [if_neg fun hmax => Option.some_ne_none b (hinc.symm.trans ((increment_eq_none_iff _ _).2 hmax))]
    exact reports_succeed ..

theorem execCtrClone_reports (s : State) :
    Reports s (execCtrClone s)
      (if s.ctrValid = false then .counterMissing
        else if s.params.dmemBytes < s.addr.toNat + 16 then .rangeInvalid else .success) :=
  .check .rfl <| .check (inRange_eq_false_iff s 16) <| reports_succeed ..

theorem execStreamApply_reports (s : State) :
    Reports s (execStreamApply s)
      (if s.keyValid = false then .keyMissing else if s.ctrValid = false then .counterMissing
        else if s.len.toNat = 0 then .emptyInputInvalid
        else if s.params.dmemBytes < s.addr.toNat + s.len.toNat then .rangeInvalid
        else if s.params.ctrOverflow = .fault ∧ 16 < s.cursor.val + s.len.toNat
            ∧ 2 ^ 32 ≤ (suffix s.ctr).toNat + (s.cursor.val + s.len.toNat - 16 + 15) / 16 then .counterExhausted
        else .success) :=
  have hexhausts := exhausts_iff (suffix s.ctr).toNat s.len.toNat (Nat.le_of_lt_succ s.cursor.isLt)
  .check .rfl <| .check .rfl <| .check (word_eq_zero_iff _) <| .check (inRange_eq_false_iff s _) <|
    .check (and_congr_right' hexhausts) <| reports_succeed ..

/-- Settles O9: an illegal word is raised, and each command runs the checks of its row of R272 in order. -/
theorem commandsReportTheFirstFailingCheck : Obligations.CommandsReportTheFirstFailingCheck := by
  refine ⟨fun v s hillegal => ?_, fun i s => ?_⟩
  · rcases runCommand_cases v s with ⟨i, hdecode, _⟩ | ⟨_, _, hraise⟩
    · exact absurd ⟨i, hdecode⟩ ((exists_illegal_iff v).1 hillegal)
    · exact hraise
  · cases i with
    | keyExpand n => exact execKeyExpand_reports n s
    | blockEnc => exact blockCommand_reports _ s
    | blockDec => exact blockCommand_reports _ s
    | ctrLoad n => exact execCtrLoad_reports n s
    | ctrSetval => exact execCtrSetval_reports s
    | ctrSetbytes => exact execCtrSetbytes_reports s
    | ctrInc => exact execCtrInc_reports s
    | ctrClone => exact execCtrClone_reports s
    | streamReset => exact reports_succeed s _
    | streamApply => exact execStreamApply_reports s

end Sys2Proof.Machine
end

section
/-! PROOF. KEY_VALID, CTR_VALID and STICKY once set stay set until a reset (R302). -/

namespace Sys2Proof.Machine

theorem effect_keyValid_of_set {i : Instr} {s t : State} (h : Effect i s t) (hset : s.keyValid = true) :
    t.keyValid = true := by
  rcases effect_keys h with ⟨n, rfl⟩ | ⟨hkept, _⟩
  · obtain ⟨_, rfl⟩ := h
    simp [expandKey]
  · exact hkept.trans hset

theorem effect_ctrValid_of_set {i : Instr} {s t : State} (h : Effect i s t) (hset : s.ctrValid = true) :
    t.ctrValid = true := by
  rcases effect_counter h with ⟨n, rfl⟩ | rfl | ⟨_, hkept⟩ | ⟨_, hkept⟩
  · obtain ⟨_, _, rfl⟩ := h
    simp
  · obtain ⟨_, _, rfl⟩ := h
    simp
  · exact hkept.trans hset
  · exact hkept.trans hset

/-- Settles O41: the effects that write KEY_VALID or CTR_VALID set it, and STICKY is cleared by a reset alone. -/
theorem validFlagsStayUntilReset : Obligations.ValidFlagsStayUntilReset := by
  intro s t hstep hreset
  have hsticky : s.sticky = true → t.sticky = true := fun hset => by
    rcases step_sticky hstep with hkept | ⟨hraised, _⟩ | ⟨_, rest, hhost⟩
    · exact hkept.trans hset
    · exact hraised
    · exact absurd hhost (hreset rest)
  rcases step_stores hstep with ⟨hkey, _, _, _, hctr, _⟩ | ⟨rest, hhost, _⟩ | ⟨_, _, _, _, _, heffect⟩
  · exact ⟨hkey.trans, hctr.trans, hsticky⟩
  · exact absurd hhost (hreset rest)
  · have hkey := effect_keyValid_of_set heffect
    have hctr := effect_ctrValid_of_set heffect
    exact ⟨hkey, hctr, hsticky⟩

end Sys2Proof.Machine
end
